-- ==== Sys2Proof/Word.lean ====
section
/-! DEFINITION. The word types of the machine (00_scope.md R6, R9): all values are unsigned bit strings. -/

namespace Sys2Proof

/-- `u8` of R9: a general register, a timer, a byte of memory, the immediate NN. -/
abbrev Byte := BitVec 8

/-- `u16` of R9: PC, I, a stack entry, an opcode. -/
abbrev Word := BitVec 16

/-- A register number X or Y (R81), or a key index of the keypad (R32): 0..15. -/
abbrev Reg := Fin 16

/-- A key index 0..15 (R32). -/
abbrev Key := Fin 16

/-- Number of bytes of memory (R6, R50). -/
abbrev memSize : Nat := 4096

/-- Where a program is loaded and where PC starts (R6, R24, R66). -/
abbrev loadAddr : Nat := 0x200

/-- The longest legal ROM (R6, R66). -/
abbrev maxRomSize : Nat := 3584

end Sys2Proof
end

