-- ==== Sys2Proof/Syntax.lean ====
section
/-! DEFINITION. The instructions: one constructor per row of spec/opcode_table.json (30_encoding.md R85), with the
operand fields of R81 that the row names. Bits the decoder ignores (R87) are no part of an instruction (log entry 13). -/

namespace Sys2Proof

/-- The 34 instructions (R3, R85). `x`, `y` are register numbers, `nn` the immediate byte, `nnn` the 12-bit address,
`n` the sprite height. -/
inductive Instr where
  /-- 00E0 clear-screen (R210). -/
  | cls
  /-- 00EE return (R140). -/
  | ret
  /-- 1NNN jump (R141). -/
  | jp (nnn : BitVec 12)
  /-- 2NNN call (R142). -/
  | call (nnn : BitVec 12)
  /-- 3XNN skip-eq-imm (R143). -/
  | seVxNn (x : Reg) (nn : Byte)
  /-- 4XNN skip-ne-imm (R144). -/
  | sneVxNn (x : Reg) (nn : Byte)
  /-- 5XY- skip-eq-reg (R145). -/
  | seVxVy (x y : Reg)
  /-- 6XNN set-imm (R161). -/
  | ldVxNn (x : Reg) (nn : Byte)
  /-- 7XNN add-imm (R162). -/
  | addVxNn (x : Reg) (nn : Byte)
  /-- 8XY0 set-reg (R163). -/
  | ldVxVy (x y : Reg)
  /-- 8XY1 or (R164). -/
  | orVxVy (x y : Reg)
  /-- 8XY2 and (R165). -/
  | andVxVy (x y : Reg)
  /-- 8XY3 xor (R166). -/
  | xorVxVy (x y : Reg)
  /-- 8XY4 add-reg (R167). -/
  | addVxVy (x y : Reg)
  /-- 8XY5 sub (R168). -/
  | subVxVy (x y : Reg)
  /-- 8XY6 shr (R169): Y is decoded and ignored by the semantics. -/
  | shrVx (x y : Reg)
  /-- 8XY7 rsub (R170). -/
  | subnVxVy (x y : Reg)
  /-- 8XYE shl (R171): Y is decoded and ignored by the semantics. -/
  | shlVx (x y : Reg)
  /-- 9XY- skip-ne-reg (R146). -/
  | sneVxVy (x y : Reg)
  /-- ANNN set-index (R190). -/
  | ldINnn (nnn : BitVec 12)
  /-- BNNN jump+offset (R147). -/
  | jpV0Nnn (nnn : BitVec 12)
  /-- CXNN random (R172). -/
  | rndVxNn (x : Reg) (nn : Byte)
  /-- DXYN draw-sprite (R212). -/
  | drw (x y : Reg) (n : Nat)
  /-- EX9E skip-if-pressed (R214). -/
  | skp (x : Reg)
  /-- EXA1 skip-if-not-pressed (R215). -/
  | sknp (x : Reg)
  /-- FX07 get-delay (R230). -/
  | ldVxDt (x : Reg)
  /-- FX0A wait-key (R216). -/
  | ldVxK (x : Reg)
  /-- FX15 set-delay (R231). -/
  | ldDtVx (x : Reg)
  /-- FX18 set-sound (R232). -/
  | ldStVx (x : Reg)
  /-- FX1E add-to-index (R191). -/
  | addIVx (x : Reg)
  /-- FX29 font-address (R192). -/
  | ldFVx (x : Reg)
  /-- FX33 store-BCD (R193). -/
  | ldBVx (x : Reg)
  /-- FX55 store-registers (R194). -/
  | ldMemVx (x : Reg)
  /-- FX65 load-registers (R195). -/
  | ldVxMem (x : Reg)
  deriving DecidableEq, Repr

end Sys2Proof
end

