-- ==== Sys2Proof/WellFormed.lean ====
section
/-! DEFINITION. Which instruction terms are instructions of the machine: every operand within the field that encodes it
(30_encoding.md R81, R82). Register numbers, NN and NNN have types that hold exactly their field's values; the sprite
height N is a count, and must be at most 15. -/

namespace Sys2Proof

/-- Every operand fits its field: N is "a 4-bit unsigned count (0..15)" (R82), so `drw` needs n ≤ 15. -/
def Instr.wf : Instr → Bool
  | .cls | .ret => true
  | .jp _ | .call _ | .ldINnn _ | .jpV0Nnn _ => true
  | .seVxNn _ _ | .sneVxNn _ _ | .ldVxNn _ _ | .addVxNn _ _ | .rndVxNn _ _ => true
  | .seVxVy _ _ | .sneVxVy _ _ | .ldVxVy _ _ | .orVxVy _ _ | .andVxVy _ _ | .xorVxVy _ _ => true
  | .addVxVy _ _ | .subVxVy _ _ | .shrVx _ _ | .subnVxVy _ _ | .shlVx _ _ => true
  | .drw _ _ n => n ≤ 15
  | .skp _ | .sknp _ | .ldVxDt _ | .ldVxK _ | .ldDtVx _ | .ldStVx _ => true
  | .addIVx _ | .ldFVx _ | .ldBVx _ | .ldMemVx _ | .ldVxMem _ => true

end Sys2Proof
end

