-- ==== Sys2Proof/Decode.lean ====
section
/-! DEFINITION. Decode and encode (30_encoding.md). The decoder follows the case tree of R84; `opcodeMap` is the
table of R85, written from the table alone, against which the decoder can be held. The bit patterns are the spec's own
general knowledge (93_implementation_defined.md G1–G4): log entry 1. -/

namespace Sys2Proof

/-- Why bytes decode to no instruction. -/
inductive DecodeError where
  /-- `Unknown` of R84: the opcode matches no row of R85; it carries the raw opcode (R86). -/
  | unknownOpcode (op : Word)
  /-- Fewer than the two bytes of an instruction (R80). A step never asks: its fetch has read two bytes (log entry 14). -/
  | truncated
  deriving DecidableEq, Repr

/-! ### Fields (R81) -/

/-- Category C: op[15:12]. -/
def catField (op : Word) : BitVec 4 := op.extractLsb' 12 4

/-- X: op[11:8], a register number. -/
def xField (op : Word) : Reg := ⟨(op.extractLsb' 8 4).toNat, (op.extractLsb' 8 4).isLt⟩

/-- Y: op[7:4], a register number. -/
def yField (op : Word) : Reg := ⟨(op.extractLsb' 4 4).toNat, (op.extractLsb' 4 4).isLt⟩

/-- N: op[3:0], the low nibble. -/
def nField (op : Word) : BitVec 4 := op.extractLsb' 0 4

/-- NN: op[7:0], the low byte. -/
def nnField (op : Word) : Byte := op.extractLsb' 0 8

/-- NNN: op[11:0], the 12-bit address. -/
def nnnField (op : Word) : BitVec 12 := op.extractLsb' 0 12

/-! ### The decoder (R84) -/

/-- Category 0: the bottom byte selects; op[11:8] is ignored (R87). -/
def decodeCat0 (op : Word) : Except DecodeError Instr :=
  if nnField op = 0xE0 then .ok .cls
  else if nnField op = 0xEE then .ok .ret
  else .error (.unknownOpcode op)

/-- Category 8: the bottom nibble selects. -/
def decodeCat8 (op : Word) : Except DecodeError Instr :=
  let x := xField op
  let y := yField op
  match (nField op).toNat with
  | 0x0 => .ok (.ldVxVy x y)
  | 0x1 => .ok (.orVxVy x y)
  | 0x2 => .ok (.andVxVy x y)
  | 0x3 => .ok (.xorVxVy x y)
  | 0x4 => .ok (.addVxVy x y)
  | 0x5 => .ok (.subVxVy x y)
  | 0x6 => .ok (.shrVx x y)
  | 0x7 => .ok (.subnVxVy x y)
  | 0xE => .ok (.shlVx x y)
  | _ => .error (.unknownOpcode op)

/-- Category E: the bottom byte selects. -/
def decodeCatE (op : Word) : Except DecodeError Instr :=
  if nnField op = 0x9E then .ok (.skp (xField op))
  else if nnField op = 0xA1 then .ok (.sknp (xField op))
  else .error (.unknownOpcode op)

/-- Category F: the bottom byte selects. -/
def decodeCatF (op : Word) : Except DecodeError Instr :=
  let x := xField op
  match (nnField op).toNat with
  | 0x07 => .ok (.ldVxDt x)
  | 0x0A => .ok (.ldVxK x)
  | 0x15 => .ok (.ldDtVx x)
  | 0x18 => .ok (.ldStVx x)
  | 0x1E => .ok (.addIVx x)
  | 0x29 => .ok (.ldFVx x)
  | 0x33 => .ok (.ldBVx x)
  | 0x55 => .ok (.ldMemVx x)
  | 0x65 => .ok (.ldVxMem x)
  | _ => .error (.unknownOpcode op)

/-- `decode(op)` of R84: a pure total function of the 16-bit opcode; the top nibble selects the category. -/
def decodeWord (op : Word) : Except DecodeError Instr :=
  match (catField op).toNat with
  | 0x0 => decodeCat0 op
  | 0x1 => .ok (.jp (nnnField op))
  | 0x2 => .ok (.call (nnnField op))
  | 0x3 => .ok (.seVxNn (xField op) (nnField op))
  | 0x4 => .ok (.sneVxNn (xField op) (nnField op))
  | 0x5 => .ok (.seVxVy (xField op) (yField op))
  | 0x6 => .ok (.ldVxNn (xField op) (nnField op))
  | 0x7 => .ok (.addVxNn (xField op) (nnField op))
  | 0x8 => decodeCat8 op
  | 0x9 => .ok (.sneVxVy (xField op) (yField op))
  | 0xA => .ok (.ldINnn (nnnField op))
  | 0xB => .ok (.jpV0Nnn (nnnField op))
  | 0xC => .ok (.rndVxNn (xField op) (nnField op))
  | 0xD => .ok (.drw (xField op) (yField op) (nField op).toNat)
  | 0xE => decodeCatE op
  | _ => decodeCatF op

/-- The big-endian opcode of two consecutive bytes (R55, R80): the first is the most significant. -/
def composeOpcode (hi lo : Byte) : Word := hi ++ lo

/-- Decode from bytes: the instruction and the bytes after it. Every instruction is two bytes (R80). -/
def decode : List Byte → Except DecodeError (Instr × List Byte)
  | hi :: lo :: rest =>
    match decodeWord (composeOpcode hi lo) with
    | .ok i => .ok (i, rest)
    | .error e => .error e
  | _ => .error .truncated

/-! ### The opcode map (R85) -/

/-- One row of the table of R85: `op` is the row's instruction when `op & mask = pattern`. -/
structure OpcodeRow where
  pattern : Word
  mask : Word
  build : Word → Instr

/-- The row selects this opcode. -/
def OpcodeRow.selects (r : OpcodeRow) (op : Word) : Bool := op &&& r.mask == r.pattern

/-- The rows of R85, in the table's order. -/
def opcodeMap : List OpcodeRow := [
  ⟨0x00E0, 0xF0FF, fun _ => .cls⟩,
  ⟨0x00EE, 0xF0FF, fun _ => .ret⟩,
  ⟨0x1000, 0xF000, fun op => .jp (nnnField op)⟩,
  ⟨0x2000, 0xF000, fun op => .call (nnnField op)⟩,
  ⟨0x3000, 0xF000, fun op => .seVxNn (xField op) (nnField op)⟩,
  ⟨0x4000, 0xF000, fun op => .sneVxNn (xField op) (nnField op)⟩,
  ⟨0x5000, 0xF000, fun op => .seVxVy (xField op) (yField op)⟩,
  ⟨0x6000, 0xF000, fun op => .ldVxNn (xField op) (nnField op)⟩,
  ⟨0x7000, 0xF000, fun op => .addVxNn (xField op) (nnField op)⟩,
  ⟨0x8000, 0xF00F, fun op => .ldVxVy (xField op) (yField op)⟩,
  ⟨0x8001, 0xF00F, fun op => .orVxVy (xField op) (yField op)⟩,
  ⟨0x8002, 0xF00F, fun op => .andVxVy (xField op) (yField op)⟩] ++ [
  ⟨0x8003, 0xF00F, fun op => .xorVxVy (xField op) (yField op)⟩,
  ⟨0x8004, 0xF00F, fun op => .addVxVy (xField op) (yField op)⟩,
  ⟨0x8005, 0xF00F, fun op => .subVxVy (xField op) (yField op)⟩,
  ⟨0x8006, 0xF00F, fun op => .shrVx (xField op) (yField op)⟩,
  ⟨0x8007, 0xF00F, fun op => .subnVxVy (xField op) (yField op)⟩,
  ⟨0x800E, 0xF00F, fun op => .shlVx (xField op) (yField op)⟩,
  ⟨0x9000, 0xF000, fun op => .sneVxVy (xField op) (yField op)⟩,
  ⟨0xA000, 0xF000, fun op => .ldINnn (nnnField op)⟩,
  ⟨0xB000, 0xF000, fun op => .jpV0Nnn (nnnField op)⟩,
  ⟨0xC000, 0xF000, fun op => .rndVxNn (xField op) (nnField op)⟩,
  ⟨0xD000, 0xF000, fun op => .drw (xField op) (yField op) (nField op).toNat⟩,
  ⟨0xE09E, 0xF0FF, fun op => .skp (xField op)⟩] ++ [
  ⟨0xE0A1, 0xF0FF, fun op => .sknp (xField op)⟩,
  ⟨0xF007, 0xF0FF, fun op => .ldVxDt (xField op)⟩,
  ⟨0xF00A, 0xF0FF, fun op => .ldVxK (xField op)⟩,
  ⟨0xF015, 0xF0FF, fun op => .ldDtVx (xField op)⟩,
  ⟨0xF018, 0xF0FF, fun op => .ldStVx (xField op)⟩,
  ⟨0xF01E, 0xF0FF, fun op => .addIVx (xField op)⟩,
  ⟨0xF029, 0xF0FF, fun op => .ldFVx (xField op)⟩,
  ⟨0xF033, 0xF0FF, fun op => .ldBVx (xField op)⟩,
  ⟨0xF055, 0xF0FF, fun op => .ldMemVx (xField op)⟩,
  ⟨0xF065, 0xF0FF, fun op => .ldVxMem (xField op)⟩]

/-- Decode by the table: the first row that selects the opcode, if any. -/
def decodeByMap (op : Word) : Option Instr := (opcodeMap.find? (·.selects op)).map (·.build op)

/-! ### The encoder (R83, R85, R88: ignored bits are written 0) -/

/-- The nibble that names a register. -/
def regNibble (x : Reg) : BitVec 4 := BitVec.ofFin x

/-- Format `A`: C[4] NNN[12]. -/
def formatA (c : BitVec 4) (nnn : BitVec 12) : Word := c ++ nnn

/-- Formats `RI` and `R`: C[4] X[4] NN[8]. -/
def formatRI (c : BitVec 4) (x : Reg) (nn : Byte) : Word := c ++ (regNibble x ++ nn)

/-- Formats `RR` and `RRN`: C[4] X[4] Y[4] N[4]. -/
def formatRR (c : BitVec 4) (x y : Reg) (n : BitVec 4) : Word := c ++ (regNibble x ++ (regNibble y ++ n))

/-- The opcode of a well-formed instruction, ignored bits 0 (R88). -/
def encode : Instr → Word
  | .cls => formatRI 0x0 0 0xE0
  | .ret => formatRI 0x0 0 0xEE
  | .jp nnn => formatA 0x1 nnn
  | .call nnn => formatA 0x2 nnn
  | .seVxNn x nn => formatRI 0x3 x nn
  | .sneVxNn x nn => formatRI 0x4 x nn
  | .seVxVy x y => formatRR 0x5 x y 0x0
  | .ldVxNn x nn => formatRI 0x6 x nn
  | .addVxNn x nn => formatRI 0x7 x nn
  | .ldVxVy x y => formatRR 0x8 x y 0x0
  | .orVxVy x y => formatRR 0x8 x y 0x1
  | .andVxVy x y => formatRR 0x8 x y 0x2
  | .xorVxVy x y => formatRR 0x8 x y 0x3
  | .addVxVy x y => formatRR 0x8 x y 0x4
  | .subVxVy x y => formatRR 0x8 x y 0x5
  | .shrVx x y => formatRR 0x8 x y 0x6
  | .subnVxVy x y => formatRR 0x8 x y 0x7
  | .shlVx x y => formatRR 0x8 x y 0xE
  | .sneVxVy x y => formatRR 0x9 x y 0x0
  | .ldINnn nnn => formatA 0xA nnn
  | .jpV0Nnn nnn => formatA 0xB nnn
  | .rndVxNn x nn => formatRI 0xC x nn
  | .drw x y n => formatRR 0xD x y (BitVec.ofNat 4 n)
  | .skp x => formatRI 0xE x 0x9E
  | .sknp x => formatRI 0xE x 0xA1
  | .ldVxDt x => formatRI 0xF x 0x07
  | .ldVxK x => formatRI 0xF x 0x0A
  | .ldDtVx x => formatRI 0xF x 0x15
  | .ldStVx x => formatRI 0xF x 0x18
  | .addIVx x => formatRI 0xF x 0x1E
  | .ldFVx x => formatRI 0xF x 0x29
  | .ldBVx x => formatRI 0xF x 0x33
  | .ldMemVx x => formatRI 0xF x 0x55
  | .ldVxMem x => formatRI 0xF x 0x65

/-- The two bytes of an opcode in the order memory holds them (R55): the most significant first. -/
def opcodeBytes (op : Word) : List Byte := [op.extractLsb' 8 8, op.extractLsb' 0 8]

/-- The bytes of an instruction as memory holds them. -/
def encodeBytes (i : Instr) : List Byte := opcodeBytes (encode i)

/-- The bits of an instruction's opcode that decode looks at: all but the ignored ones of R87. -/
def significantMask : Instr → Word
  | .cls | .ret => 0xF0FF
  | .seVxVy _ _ | .sneVxVy _ _ => 0xFFF0
  | _ => 0xFFFF

/-! ### The host's question -/

/-- The 16-bit opcode whose bits are `w`, numbered as spec/opcode_table.json numbers them, the bits above `nbits` zero. -/
def tableOpcode (nbits w : Nat) : Word := BitVec.ofNat 16 (w % 2 ^ nbits)

/-- The instruction the decoder reads from the bytes of that opcode, laid out as memory holds them. -/
def decodeTableWord (nbits w : Nat) : Option Instr :=
  match decode (opcodeBytes (tableOpcode nbits w)) with
  | .ok (i, _) => some i
  | .error _ => none

end Sys2Proof
end

