-- ==== Sys2Proof/Config.lean ====
section
/-! DEFINITION. The configuration fields of 00_scope.md R7 and the draws of R8.
FONT and AddFlagRule are parameters a machine holds for its life (`Config.Params`, log entries 2 and 3).
RebootProgramBytes (OPEN in the spec), RandomByte and KeyChoice are opaque: nothing can prove a value of them
(log entries 4, 5, 6). -/

namespace Sys2Proof.Config

/-- FONT (R7, R37): 16 glyphs of 5 bytes, the byte of row r of glyph g at address 5g + r. -/
abbrev Font := Vector (Vector Byte 5) 16

/-- AddFlagRule (R7, R167): how add-reg computes VF. -/
inductive AddFlagRule where
  /-- VF = 1 when the result exceeds 0xFF minus the result: the spec's default (C1). -/
  | postAddition
  /-- VF = 1 when the exact sum exceeds 0xFF. -/
  | trueCarry
  deriving DecidableEq, Repr

/-- RebootProgramBytes (R7, R293): what a reboot leaves in the program's own bytes. -/
inductive RebootProgramBytes where
  /-- The ROM image is loaded again. -/
  | reloadImage
  /-- The bytes memory holds at the reboot are kept. -/
  | keepCurrent
  deriving DecidableEq, Repr, Inhabited

/-- The parameters fixed for one machine's life (R7). -/
structure Params where
  font : Font
  addFlagRule : AddFlagRule
  deriving DecidableEq, Repr

/-- The default FONT of R37, which the spec marks as general knowledge (D6). UNVERIFIED: log entry 2. -/
def defaultFont : Font := #v[
  #v[0xF0, 0x90, 0x90, 0x90, 0xF0],
  #v[0x20, 0x60, 0x20, 0x20, 0x70],
  #v[0xF0, 0x10, 0xF0, 0x80, 0xF0],
  #v[0xF0, 0x10, 0xF0, 0x10, 0xF0],
  #v[0x90, 0x90, 0xF0, 0x10, 0x10],
  #v[0xF0, 0x80, 0xF0, 0x10, 0xF0],
  #v[0xF0, 0x80, 0xF0, 0x90, 0xF0],
  #v[0xF0, 0x10, 0x20, 0x40, 0x40],
  #v[0xF0, 0x90, 0xF0, 0x90, 0xF0],
  #v[0xF0, 0x90, 0xF0, 0x10, 0xF0],
  #v[0xF0, 0x90, 0xF0, 0x90, 0x90],
  #v[0xE0, 0x90, 0xE0, 0x90, 0xE0],
  #v[0xF0, 0x80, 0x80, 0x80, 0xF0],
  #v[0xE0, 0x90, 0x90, 0x90, 0xE0],
  #v[0xF0, 0x80, 0xF0, 0x80, 0xF0],
  #v[0xF0, 0x80, 0xF0, 0x80, 0x80]]

/-- The defaults of R7: the font of R37 and `PostAddition`. -/
def defaultParams : Params := ⟨defaultFont, .postAddition⟩

/-- RebootProgramBytes of this implementation: OPEN (R293), so it has no body here (log entry 4). -/
opaque rebootProgramBytes : RebootProgramBytes

/-- The draw RandomByte (R8, R172), free at each use: the n-th draw of a run (log entry 5). -/
opaque randomByte : Nat → Byte

/-- The draw KeyChoice (R8, R216), free at each use: which of the held keys is taken is this number modulo how many
are held, so every held key is admitted (log entry 6). -/
opaque keyChoice : Nat → Nat

end Sys2Proof.Config
end

