-- ==== Sys2Proof/Machine/State.lean ====
section
/-! DEFINITION. The state of one machine (10_state.md R20), its faults (60_exceptions.md R250), the host's actions (R267)
and the state right after construction (70_reset_and_hazards.md R290). Plain data throughout. -/

namespace Sys2Proof.Machine

/-- The two kinds of `StackFault` (R253). -/
inductive StackFaultKind where
  /-- A call with all 16 entries in use. -/
  | overflow
  /-- A return with none in use. -/
  | underflow
  deriving DecidableEq, Repr

/-- The fatal faults of R250. The spec describes their entry (R256), so a step TAKES a fault: it answers a next state
whose engine is `awaitingReboot f` (log entry 9). No step answers `Host.Outcome.fault`. -/
inductive Fault where
  /-- Raised by decode for every opcode of R86, with the raw opcode (R251). Safe: the spec forbids a fallback. -/
  | unknownOpcode (op : Word)
  /-- Raised by fetch, draw-sprite, store-BCD, store-registers and load-registers, with the lowest out-of-range address
  (R252). Safe: the model stops where the original is undefined. -/
  | memoryFault (a : Nat)
  /-- Raised by call (overflow) and return (underflow) (R253). Safe, as `memoryFault`. -/
  | stackFault (kind : StackFaultKind)
  /-- Raised by skip-if-pressed and skip-if-not-pressed for a key index above 0x0F, with the index (R254). Safe: it stops
  where the source says nothing (D15, log entry 20). -/
  | keyFault (v : Byte)
  deriving DecidableEq, Repr

/-- Why the model has no meaning for an instruction. -/
inductive Refusal where
  /-- Raised by an arm of `exec` for an instruction not modelled yet. No arm raises it: every instruction is modelled.
  Safe: the model would stop where the hardware goes on. -/
  | notModelled (mnemonic : String)
  deriving DecidableEq, Repr

/-- The engine state (R33, R110). -/
inductive Engine where
  /-- Steps fetch and execute. -/
  | running
  /-- Steps only update the timers (R121). -/
  | haltedOnSelfLoop
  /-- A fatal fault was raised; steps do nothing (R122). -/
  | awaitingReboot (f : Fault)
  deriving DecidableEq, Repr

/-- The status of a step (R111). -/
inductive Status where
  | continues
  | halted
  | failed (f : Fault)
  deriving DecidableEq, Repr

/-- The outcome record of a step (R111). -/
structure StepOutcome where
  status : Status
  beep : Bool
  redraw : Bool
  deriving DecidableEq, Repr

/-- A row of 64 framebuffer cells; bit x is the cell of column x. -/
abbrev FbRow := BitVec 64

/-- FB (R30): 32 rows of 64 cells of {0,1}, row-major; cell (x, y), index 64·y + x, is bit x of row y. -/
abbrev Framebuffer := Vector FbRow 32

/-- Memory (R50) as the cells that differ from what construction leaves there, at strictly rising addresses
(`Memory.wf`, log entry 10). -/
abbrev Memory := List Host.Cell

/-- The host's actions on a machine that exists (R267). -/
inductive HostAction where
  /-- One call of the engine (R112, R121, R122). -/
  | step
  /-- A key goes down (R264). -/
  | keyDown (k : Key)
  /-- A key goes up (R264). -/
  | keyUp (k : Key)
  /-- The host has read FB and clears `dirty` (R265). -/
  | ackRender
  /-- Re-initialisation of everything but the program bytes (R292). -/
  | reboot
  deriving DecidableEq, Repr

/-- What the last host action gave back: the last column of R267. -/
inductive Reply where
  | nothing
  | outcome (o : StepOutcome)
  | frame (fb : Framebuffer)
  deriving DecidableEq, Repr

/-- The state of one machine. `mem` to `engine` are the record of R20; `params` and `rom` are fixed for the machine's
life (R7, R34); `draws`, `actions` and `reply` are the model's own (log entries 5 to 8). -/
structure State where
  /-- M (R50, R51). -/
  mem : Memory
  /-- V0–VF (R21); V[15] is VF (R22). -/
  v : Vector Byte 16
  /-- I, the index register (R25). -/
  i : Word
  /-- PC (R24). -/
  pc : Word
  /-- S[0..15], the call stack (R27). -/
  stack : Vector Word 16
  /-- SP, the number of entries in use, 0..16 (R26). -/
  sp : Fin 17
  /-- DT, the delay timer (R28). -/
  dt : Byte
  /-- ST, the sound timer (R29). -/
  st : Byte
  /-- FB, the framebuffer (R30). -/
  fb : Framebuffer
  /-- The framebuffer dirty flag (R31). -/
  dirty : Bool
  /-- K[0..15], the keypad (R32). -/
  keys : Vector Bool 16
  /-- The engine state (R33). -/
  engine : Engine
  /-- FONT and AddFlagRule (R7). -/
  params : Config.Params
  /-- The ROM image kept for reboot (R34). -/
  rom : List Byte
  /-- How many draws have been taken (R8). -/
  draws : Nat
  /-- The host's pending actions, oldest first (R267). -/
  actions : List HostAction
  /-- What the last host action gave back (R111, R267). -/
  reply : Reply
  deriving DecidableEq, Repr

/-- The machine right after construction (R290, R291, R38) with the empty ROM and the default parameters: the values of
R38, no memory cell listed. PC is 0x0200 (R24). -/
def State.reset : State where
  mem := []
  v := Vector.replicate 16 0x00
  i := 0x0000
  pc := 0x0200
  stack := Vector.replicate 16 0x0000
  sp := 0
  dt := 0x00
  st := 0x00
  fb := Vector.replicate 32 0
  dirty := false
  keys := Vector.replicate 16 false
  engine := .running
  params := Config.defaultParams
  rom := []
  draws := 0
  actions := []
  reply := .nothing

end Sys2Proof.Machine
end

