-- ==== Sys2Proof/Machine/Ops.lean ====
section
/-! DEFINITION. The named operations over the state: field updates, memory (20_memory.md), the PC updates of
40_engine.md R116, the call stack, taking a fault (60_exceptions.md R256), construction and reboot
(70_reset_and_hazards.md R290, R292). -/

namespace Sys2Proof.Machine

/-- What an instruction's meaning answers. -/
abbrev Result := Host.Outcome State Fault Refusal

/-! ### Field updates -/

def State.setMem (s : State) (m : Memory) : State := { s with mem := m }
/-- `V[x] <- b` (R10). -/
def State.setV (s : State) (x : Reg) (b : Byte) : State := { s with v := s.v.set x b }
/-- Replace the whole register file. -/
def State.setVs (s : State) (vs : Vector Byte 16) : State := { s with v := vs }
def State.setI (s : State) (a : Word) : State := { s with i := a }
def State.setPc (s : State) (a : Word) : State := { s with pc := a }
def State.setStack (s : State) (st : Vector Word 16) : State := { s with stack := st }
def State.setSp (s : State) (n : Fin 17) : State := { s with sp := n }
def State.setDt (s : State) (b : Byte) : State := { s with dt := b }
def State.setSt (s : State) (b : Byte) : State := { s with st := b }
def State.setFb (s : State) (fb : Framebuffer) : State := { s with fb := fb }
def State.setDirty (s : State) (d : Bool) : State := { s with dirty := d }
/-- `K[k] <- d` (R10). -/
def State.setKey (s : State) (k : Key) (d : Bool) : State := { s with keys := s.keys.set k d }
def State.setEngine (s : State) (e : Engine) : State := { s with engine := e }
def State.setDraws (s : State) (n : Nat) : State := { s with draws := n }
def State.setActions (s : State) (as : List HostAction) : State := { s with actions := as }
def State.setReply (s : State) (r : Reply) : State := { s with reply := r }

/-- `V[x]` (R10). -/
def State.getV (s : State) (x : Reg) : Byte := s.v[x]

/-- The register number of VF (R22). -/
abbrev VF : Reg := 15

/-! ### Memory cells -/

/-- What an address nothing has written since construction reads as: FONT at 0x000–0x04F (R37), 0x00 elsewhere
(R51, R290). -/
def initialByte (font : Config.Font) (a : Nat) : Byte :=
  if h : a < 80 then (font[a / 5]'(by omega))[a % 5]'(by omega) else 0x00

/-- The listed byte at an address, if one is listed. -/
def Memory.find : Memory → Nat → Option Byte
  | [], _ => none
  | (k, b) :: m, a => if k = a then some b else Memory.find m a

/-- `M[a]`. -/
def Memory.read (font : Config.Font) (m : Memory) (a : Nat) : Byte :=
  (Memory.find m a).getD (initialByte font a)

/-- The memory without a cell at `a`. -/
def Memory.remove : Memory → Nat → Memory
  | [], _ => []
  | (k, b) :: m, a => if k = a then Memory.remove m a else (k, b) :: Memory.remove m a

/-- The memory with the cell (a, b) at its place in the rising order. -/
def Memory.insert : Memory → Nat → Byte → Memory
  | [], a, b => [(a, b)]
  | (k, c) :: m, a, b =>
    if a < k then (a, b) :: (k, c) :: m
    else if a = k then (a, b) :: m
    else (k, c) :: Memory.insert m a b

/-- `M[a] <- b`, in canonical form: a byte equal to what an unlisted address reads as is not listed. -/
def Memory.write (font : Config.Font) (m : Memory) (a : Nat) (b : Byte) : Memory :=
  if b = initialByte font a then Memory.remove m a else Memory.insert m a b

/-- The canonical form: addresses strictly rising and below 4096, no cell equal to the unlisted value. -/
abbrev Memory.wf (font : Config.Font) (m : Memory) : Prop :=
  m.Pairwise (fun p q => p.1 < q.1) ∧ ∀ p ∈ m, p.1 < memSize ∧ p.2 ≠ initialByte font p.1

/-- The n bytes from address a, in rising order. -/
def Memory.readBytes (font : Config.Font) (m : Memory) (a : Nat) : Nat → List Byte
  | 0 => []
  | n + 1 => Memory.read font m a :: Memory.readBytes font m (a + 1) n

/-- Write bytes at rising addresses from a. -/
def Memory.writeBytes (font : Config.Font) : Memory → Nat → List Byte → Memory
  | m, _, [] => m
  | m, a, b :: bs => Memory.writeBytes font (Memory.write font m a b) (a + 1) bs

/-! ### Memory accesses of the machine -/

/-- `M[a]` of a state, with no check. -/
def State.byteAt (s : State) (a : Nat) : Byte := Memory.read s.params.font s.mem a

/-- The n bytes of a state from address a, with no check. -/
def State.bytesAt (s : State) (a n : Nat) : List Byte := Memory.readBytes s.params.font s.mem a n

/-- Store bytes at rising addresses from a. Used only where `checkRange` has passed (R11). -/
def State.storeBytes (s : State) (a : Nat) (bs : List Byte) : State :=
  s.setMem (Memory.writeBytes s.params.font s.mem a bs)

/-- `MemRead(a, 1)` (R11, R52): the byte, or MemoryFault(a) at 4096 and above. -/
def memRead (s : State) (a : Nat) : Except Fault Byte :=
  if a < memSize then .ok (s.byteAt a) else .error (.memoryFault a)

/-- `CheckRange(a, n)` (R11): passes when the n ≥ 1 bytes from a are in range, else raises MemoryFault of the lowest
address of the range that is out of bounds. -/
def checkRange (a n : Nat) : Except Fault Unit :=
  if a + n - 1 < memSize then .ok () else .error (.memoryFault (max a memSize))

/-- Fetch (R113): M[PC] and M[PC + 1], the sum without wrap, composed big-endian. -/
def fetch (s : State) : Except Fault Word :=
  match memRead s s.pc.toNat with
  | .error f => .error f
  | .ok hi =>
    match memRead s (s.pc.toNat + 1) with
    | .error f => .error f
    | .ok lo => .ok (composeOpcode hi lo)

/-! ### PC updates (R12, R116) -/

/-- `next`: PC <- (PC + 2) mod 2^16. -/
def State.advance (s : State) : State := s.setPc (s.pc + 2)

/-- `skip`: PC <- (PC + 4) mod 2^16. -/
def State.skip (s : State) : State := s.setPc (s.pc + 4)

/-- `if c: skip else: next`. -/
def State.skipIf (s : State) (c : Bool) : State := if c then s.skip else s.advance

/-! ### Faults -/

/-- Taking a fault (R256): every effect of the step is discarded, so `s` is the state before the instruction; the engine
awaits a reboot; nothing else is saved or changed. There is no vector, handler, mode change or push. -/
def takeFault (f : Fault) (s : State) : Result := .next (s.setEngine (.awaitingReboot f))

/-- An instruction with a check of its own (R260): when the check raises, the fault is taken from the state before the
instruction `s`; else the state the instruction leaves is `body`. -/
def guarded (check : Except Fault Unit) (s body : State) : Result :=
  match check with
  | .error f => takeFault f s
  | .ok () => .next body

/-! ### The call stack (R26, R27) -/

/-- The check of call (R142): room for one more entry. -/
def checkPush (s : State) : Except Fault Unit :=
  if s.sp.val = 16 then .error (.stackFault .overflow) else .ok ()

/-- The check of return (R140): an entry in use. -/
def checkPop (s : State) : Except Fault Unit :=
  if s.sp.val = 0 then .error (.stackFault .underflow) else .ok ()

/-- `S[SP] <- a; SP <- SP + 1`. With SP = 16 nothing changes (`checkPush` stops the call before). -/
def State.push (s : State) (a : Word) : State :=
  if h : s.sp.val < 16 then
    (s.setStack (s.stack.set s.sp.val a)).setSp ⟨s.sp.val + 1, by omega⟩
  else s

/-- `SP <- SP - 1; PC <- S[SP]`: the popped entry keeps its value. With SP = 0 nothing changes (`checkPop` stops the
return before). -/
def State.pop (s : State) : State :=
  if h : 0 < s.sp.val then
    (s.setSp ⟨s.sp.val - 1, by omega⟩).setPc (s.stack[s.sp.val - 1]'(by omega))
  else s

/-! ### Draws (R8) -/

/-- `RandomByte()`: the step's random draw. -/
def State.randomByte (s : State) : Byte := Config.randomByte s.draws

/-- One draw has been taken: the next one is free again (log entry 5). -/
def State.takeDraw (s : State) : State := s.setDraws (s.draws + 1)

/-! ### Construction and reboot

Reboot is the only return from a fault or from the self-loop halt (R258). -/

/-- `Construct(ROM)` (R290): a machine with this ROM and these parameters, or a rejection of a ROM longer than 3584
bytes (R66). -/
def construct (p : Config.Params) (rom : List Byte) : Option State :=
  if rom.length ≤ maxRomSize then
    some { State.reset with params := p, rom := rom, mem := Memory.writeBytes p.font [] loadAddr rom }
  else none

/-- The program bytes a reboot leaves at 0x200 (R292, R293). -/
def rebootProgram (policy : Config.RebootProgramBytes) (s : State) : List Byte :=
  match policy with
  | .reloadImage => s.rom
  | .keepCurrent => s.bytesAt loadAddr s.rom.length

/-- `Reboot()` (R292): everything re-initialised but the program bytes; the parameters, the ROM image, the host's
pending actions and the count of draws are no state of R20 and stay (log entry 26). -/
def reboot (policy : Config.RebootProgramBytes) (s : State) : State :=
  { State.reset with
    params := s.params
    rom := s.rom
    mem := Memory.writeBytes s.params.font [] loadAddr (rebootProgram policy s)
    draws := s.draws
    actions := s.actions }

/-! ### Placing an instruction where the next step fetches -/

/-- PC, or 0x200 when no instruction can be fetched at PC (log entry 15). -/
def fetchablePc (s : State) : Word := if s.pc.toNat + 1 < memSize then s.pc else 0x0200

/-- The state whose next step fetches this opcode: its bytes stored at the fetch address, the engine running, no host
action pending. -/
def placeOpcode (s : State) (op : Word) : State :=
  let t := s.setPc (fetchablePc s)
  ((t.storeBytes t.pc.toNat (opcodeBytes op)).setEngine .running).setActions []

end Sys2Proof.Machine
end

