-- ==== Sys2Proof/Machine/Flags.lean ====
section
/-! DEFINITION. The values of VF as a flag (10_state.md R22, 42_arithmetic.md R160–R171, 43_index_memory.md R191) and the
order in which a result and its flag are written. -/

namespace Sys2Proof.Machine

/-- A flag is 0 or 1 (R160). -/
def flagByte (c : Bool) : Byte := if c then 1 else 0

/-- add-reg (R167): `r > 0xFF - r` computed in naturals, or the true carry, as AddFlagRule says. -/
def addFlag (rule : Config.AddFlagRule) (a b : Byte) : Bool :=
  match rule with
  | .postAddition => (a + b).toNat > 0xFF - (a + b).toNat
  | .trueCarry => a.toNat + b.toNat > 0xFF

/-- sub and rsub (R168, R170): 1 means no borrow in minuend - subtrahend. -/
def noBorrow (minuend subtrahend : Byte) : Bool := !(subtrahend.toNat > minuend.toNat)

/-- shr (R169): the bit shifted out, bit 0. -/
def shrFlag (a : Byte) : Bool := a.getLsbD 0

/-- shl (R171): the bit shifted out, bit 7. -/
def shlFlag (a : Byte) : Bool := a.getLsbD 7

/-- add-to-index (R191): the new I is above 0x0FFF. -/
def indexFlag (t : Word) : Bool := t.toNat > 0x0FFF

/-- The result to VX first, the flag to VF last (R160): with X = 0xF, VF ends holding the flag. -/
def State.setFlagged (s : State) (x : Reg) (r : Byte) (c : Bool) : State := (s.setV x r).setV VF (flagByte c)

end Sys2Proof.Machine
end

