-- ==== Sys2Proof/Machine/Operands.lean ====
section
/-! DEFINITION. Operand forms: assembled addresses (30_encoding.md R82), decimal digits (43_index_memory.md R193),
register lists (R194, R195), key indexes (44_display_input.md R213), the held keys (R216) and sprite geometry (R211). -/

namespace Sys2Proof.Machine

/-- NNN zero-extended to 16 bits (R82). -/
def addrOf (nnn : BitVec 12) : Word := nnn.setWidth 16

/-- A register value zero-extended to 16 bits, where it meets I or PC. -/
def wordOf (b : Byte) : Word := b.setWidth 16

/-- I as the address of a memory access, never masked (R53). -/
def State.indexAddr (s : State) : Nat := s.i.toNat

/-- The hundreds, tens and ones digits of a byte (R193). -/
def bcdDigits (b : Byte) : List Byte :=
  [BitVec.ofNat 8 (b.toNat / 100), BitVec.ofNat 8 (b.toNat / 10 % 10), BitVec.ofNat 8 (b.toNat % 10)]

/-- V0..VX inclusive, in order (R194). -/
def State.regsUpTo (s : State) (x : Reg) : List Byte := s.v.toList.take (x.val + 1)

/-- Write bytes to registers j, j + 1, … (R195); none beyond VF. -/
def loadRegs : Vector Byte 16 → Nat → List Byte → Vector Byte 16
  | v, _, [] => v
  | v, j, b :: bs => loadRegs (v.setIfInBounds j b) (j + 1) bs

/-! ### Keys -/

/-- A key index above 0xF names no key (R213). -/
def checkKey (k : Byte) : Except Fault Unit :=
  if k.toNat ≤ 0xF then .ok () else .error (.keyFault k)

/-- `K[k]`; a value that names no key is stopped by `checkKey` before. -/
def State.keyHeld (s : State) (k : Byte) : Bool :=
  if h : k.toNat < 16 then s.keys[k.toNat] else false

/-- P of R216: the held keys, in rising order. -/
def State.heldKeys (s : State) : List Key := (List.finRange 16).filter fun k => s.keys[k]

/-- `KeyChoice(P)` (R8, R216): any element of P, by the step's draw; none when P is empty. -/
def State.keyChoice (s : State) : Option Key :=
  s.heldKeys[Config.keyChoice s.draws % s.heldKeys.length]?

/-! ### Sprite geometry (R211) -/

/-- FB[idx] (R30): index 64·y + x is bit x of row y. -/
def fbGet (fb : Framebuffer) (idx : Fin 2048) : Bool :=
  (fb[idx.val / 64]'(by omega)).getLsbD (idx.val % 64)

/-- FB[idx] <- FB[idx] XOR 1. -/
def fbFlip (fb : Framebuffer) (idx : Fin 2048) : Framebuffer :=
  fb.set (idx.val / 64) ((fb[idx.val / 64]'(by omega)) ^^^ BitVec.twoPow 64 (idx.val % 64)) (by omega)

/-- The index of the cell a pixel at (x, y) lands on: both axes wrap (R211). -/
def cellIndex (x y : Nat) : Fin 2048 := ⟨y % 32 * 64 + x % 64, by omega⟩

/-- A framebuffer and whether a cell has gone from 1 to 0. -/
abbrev Blit := Framebuffer × Bool

/-- XOR one pixel in (R212). -/
def blitPixel (x y : Nat) (p : Blit) : Blit :=
  (fbFlip p.1 (cellIndex x y), p.2 || fbGet p.1 (cellIndex x y))

/-- XOR the columns of a list of one row of the sprite in; bit 7 - c of the row byte is the pixel of column c (R211). -/
def blitColumns (b : Byte) (x0 y : Nat) : List Nat → Blit → Blit
  | [], p => p
  | c :: cs, p => blitColumns b x0 y cs (if b.getLsbD (7 - c) then blitPixel (x0 + c) y p else p)

/-- XOR the rows of a sprite in, top row first, from row y0 down (R212). -/
def blitRows (x0 : Nat) : Nat → List Byte → Blit → Blit
  | _, [], p => p
  | y, b :: bs, p => blitRows x0 (y + 1) bs (blitColumns b x0 y [0, 1, 2, 3, 4, 5, 6, 7] p)

/-- The sprite of N bytes at I, drawn at (VX, VY): the framebuffer it leaves and whether a set cell was cleared. -/
def State.sprite (s : State) (x y : Reg) (n : Nat) : Blit :=
  blitRows (s.getV x).toNat (s.getV y).toNat (s.bytesAt s.indexAddr n) (s.fb, false)

/-- The check of draw-sprite (R212): a sprite of no rows reads no memory. -/
def checkSprite (s : State) (n : Nat) : Except Fault Unit :=
  if n = 0 then .ok () else checkRange s.indexAddr n

end Sys2Proof.Machine
end

