-- ==== Sys2Proof/Machine/Arithmetic.lean ====
section
/-! DEFINITION. Register arithmetic, logic, shifts and random: 42_arithmetic.md. All values are unsigned 8-bit and wrap
(R173); none of these can fault; each ends with `next`. -/

namespace Sys2Proof.Machine

/-- 6XNN set-imm (R161). -/
def execLdVxNn (x : Reg) (nn : Byte) (s : State) : Result := .next (s.setV x nn).advance

/-- 7XNN add-imm (R162): wraps, no flag. -/
def execAddVxNn (x : Reg) (nn : Byte) (s : State) : Result := .next (s.setV x (s.getV x + nn)).advance

/-- 8XY0 set-reg (R163). -/
def execLdVxVy (x y : Reg) (s : State) : Result := .next (s.setV x (s.getV y)).advance

/-- 8XY1 or (R164): VF is not written as a flag. -/
def execOrVxVy (x y : Reg) (s : State) : Result := .next (s.setV x (s.getV x ||| s.getV y)).advance

/-- 8XY2 and (R165). -/
def execAndVxVy (x y : Reg) (s : State) : Result := .next (s.setV x (s.getV x &&& s.getV y)).advance

/-- 8XY3 xor (R166). -/
def execXorVxVy (x y : Reg) (s : State) : Result := .next (s.setV x (s.getV x ^^^ s.getV y)).advance

/-- 8XY4 add-reg (R167), VF by the machine's AddFlagRule. -/
def execAddVxVy (x y : Reg) (s : State) : Result :=
  .next (s.setFlagged x (s.getV x + s.getV y) (addFlag s.params.addFlagRule (s.getV x) (s.getV y))).advance

/-- 8XY5 sub (R168). -/
def execSubVxVy (x y : Reg) (s : State) : Result :=
  .next (s.setFlagged x (s.getV x - s.getV y) (noBorrow (s.getV x) (s.getV y))).advance

/-- 8XY6 shr (R169): VX shifts in place; VY is never read. -/
def execShrVx (x _y : Reg) (s : State) : Result :=
  .next (s.setFlagged x (s.getV x >>> 1) (shrFlag (s.getV x))).advance

/-- 8XY7 rsub (R170). -/
def execSubnVxVy (x y : Reg) (s : State) : Result :=
  .next (s.setFlagged x (s.getV y - s.getV x) (noBorrow (s.getV y) (s.getV x))).advance

/-- 8XYE shl (R171): VX shifts in place; VY is never read. -/
def execShlVx (x _y : Reg) (s : State) : Result :=
  .next (s.setFlagged x (s.getV x <<< 1) (shlFlag (s.getV x))).advance

/-- CXNN random (R172): the step's draw, masked by NN. -/
def execRndVxNn (x : Reg) (nn : Byte) (s : State) : Result :=
  .next (s.takeDraw.setV x (s.randomByte &&& nn)).advance

end Sys2Proof.Machine
end

