-- ==== Sys2Proof/Machine/Control.lean ====
section
/-! DEFINITION. Control transfer: 41_control_flow.md. PC is the address of the instruction being executed (R117). -/

namespace Sys2Proof.Machine

/-- 00EE return (R140): pop, pointer first, then the default advance, since call pushes its own address. -/
def execRet (s : State) : Result := guarded (checkPop s) s s.pop.advance

/-- 1NNN jump (R141). A jump to itself is the self-loop halt (R118): nothing of it is applied. -/
def execJp (nnn : BitVec 12) (s : State) : Result :=
  if addrOf nnn = s.pc then .next (s.setEngine .haltedOnSelfLoop) else .next (s.setPc (addrOf nnn))

/-- 2NNN call (R142): pushes the address of this call; a call to itself is executed (R118). -/
def execCall (nnn : BitVec 12) (s : State) : Result := guarded (checkPush s) s ((s.push s.pc).setPc (addrOf nnn))

/-- 3XNN skip-eq-imm (R143). -/
def execSeVxNn (x : Reg) (nn : Byte) (s : State) : Result := .next (s.skipIf (s.getV x == nn))

/-- 4XNN skip-ne-imm (R144). -/
def execSneVxNn (x : Reg) (nn : Byte) (s : State) : Result := .next (s.skipIf (s.getV x != nn))

/-- 5XY- skip-eq-reg (R145). -/
def execSeVxVy (x y : Reg) (s : State) : Result := .next (s.skipIf (s.getV x == s.getV y))

/-- 9XY- skip-ne-reg (R146). -/
def execSneVxVy (x y : Reg) (s : State) : Result := .next (s.skipIf (s.getV x != s.getV y))

/-- BNNN jump+offset (R147): a 16-bit sum, no masking, no self-loop check. -/
def execJpV0Nnn (nnn : BitVec 12) (s : State) : Result := .next (s.setPc (addrOf nnn + wordOf (s.getV 0)))

end Sys2Proof.Machine
end

