-- ==== Sys2Proof/Machine/Display.lean ====
section
/-! DEFINITION. Display and keypad instructions: 44_display_input.md. -/

namespace Sys2Proof.Machine

/-- 00E0 clear-screen (R210): `dirty` is raised whatever the framebuffer held. -/
def execCls (s : State) : Result := .next ((s.setFb (Vector.replicate 32 0)).setDirty true).advance

/-- DXYN draw-sprite (R212): the range check before any cell changes, VF last; I unchanged. -/
def execDrw (x y : Reg) (n : Nat) (s : State) : Result :=
  let p := s.sprite x y n
  guarded (checkSprite s n) s (((s.setFb p.1).setDirty true).setV VF (flagByte p.2)).advance

/-- EX9E skip-if-pressed (R214). -/
def execSkp (x : Reg) (s : State) : Result :=
  guarded (checkKey (s.getV x)) s (s.skipIf (s.keyHeld (s.getV x)))

/-- EXA1 skip-if-not-pressed (R215). -/
def execSknp (x : Reg) (s : State) : Result :=
  guarded (checkKey (s.getV x)) s (s.skipIf (!s.keyHeld (s.getV x)))

/-- FX0A wait-key (R216): with a key held, one of the held keys to VX; with none, the blocked step changes nothing
(R119). -/
def execLdVxK (x : Reg) (s : State) : Result :=
  match s.keyChoice with
  | some k => .next (s.takeDraw.setV x (BitVec.ofNat 8 k.val)).advance
  | none => .next s

end Sys2Proof.Machine
end

