-- ==== Sys2Proof/Machine/Index.lean ====
section
/-! DEFINITION. Index register, BCD, register store and load: 43_index_memory.md. I is never masked; each instruction
that touches memory checks its whole range before its first write (R11). -/

namespace Sys2Proof.Machine

/-- ANNN set-index (R190). -/
def execLdINnn (nnn : BitVec 12) (s : State) : Result := .next (s.setI (addrOf nnn)).advance

/-- FX1E add-to-index (R191): modulo 2^16; the addend is the old VX; VF is written last. -/
def execAddIVx (x : Reg) (s : State) : Result :=
  let t := s.i + wordOf (s.getV x)
  .next ((s.setI t).setV VF (flagByte (indexFlag t))).advance

/-- FX29 font-address (R192): I = VX · 5, VX unmasked. -/
def execLdFVx (x : Reg) (s : State) : Result := .next (s.setI (wordOf (s.getV x) * 5)).advance

/-- FX33 store-BCD (R193): three digits at I; I unchanged. -/
def execLdBVx (x : Reg) (s : State) : Result :=
  guarded (checkRange s.indexAddr 3) s (s.storeBytes s.indexAddr (bcdDigits (s.getV x))).advance

/-- FX55 store-registers (R194): V0..VX at I, then I moves past them. -/
def execLdMemVx (x : Reg) (s : State) : Result :=
  guarded (checkRange s.indexAddr (x.val + 1)) s
    ((s.storeBytes s.indexAddr (s.regsUpTo x)).setI (s.i + BitVec.ofNat 16 (x.val + 1))).advance

/-- FX65 load-registers (R195): V0..VX from I, then I moves past them. -/
def execLdVxMem (x : Reg) (s : State) : Result :=
  guarded (checkRange s.indexAddr (x.val + 1)) s
    ((s.setVs (loadRegs s.v 0 (s.bytesAt s.indexAddr (x.val + 1)))).setI (s.i + BitVec.ofNat 16 (x.val + 1))).advance

end Sys2Proof.Machine
end

