-- ==== Sys2Proof/Machine/Timers.lean ====
section
/-! DEFINITION. The timer instructions and the timer update: 45_timers.md. -/

namespace Sys2Proof.Machine

/-- FX07 get-delay (R230): DT before this step's timer update. -/
def execLdVxDt (x : Reg) (s : State) : Result := .next (s.setV x s.dt).advance

/-- FX15 set-delay (R231). -/
def execLdDtVx (x : Reg) (s : State) : Result := .next (s.setDt (s.getV x)).advance

/-- FX18 set-sound (R232). -/
def execLdStVx (x : Reg) (s : State) : Result := .next (s.setSt (s.getV x)).advance

/-- A timer counts down and stays at 0 (R233). -/
def countDown (t : Byte) : Byte := if t.toNat > 0 then t - 1 else t

/-- `TimerUpdate()` (R233): DT and ST count down. -/
def timerUpdate (s : State) : State := (s.setDt (countDown s.dt)).setSt (countDown s.st)

/-- The beep of a timer update on this state (R234): requested exactly when it finds ST = 1. -/
def beeps (s : State) : Bool := s.st.toNat == 1

end Sys2Proof.Machine
end

