-- ==== Sys2Proof/Machine/Engine.lean ====
section
/-! DEFINITION. The engine: what one host action does (40_engine.md R110–R122, 60_exceptions.md R264–R267). -/

namespace Sys2Proof.Machine

/-- The status a step reports, by the engine state it leaves (R112, R121, R122). -/
def statusOf : Engine → Status
  | .running => .continues
  | .haltedOnSelfLoop => .halted
  | .awaitingReboot f => .failed f

/-- Report a step's outcome `{status, beep, redraw}` (R111): `redraw` is `dirty` after the step. -/
def report (beep : Bool) (t : State) : State := t.setReply (.outcome ⟨statusOf t.engine, beep, t.dirty⟩)

/-- The blocked step (R119): the instruction is wait-key and no key is held. -/
def blocked (i : Instr) (s : State) : Bool :=
  match i with
  | .ldVxK _ => s.heldKeys.isEmpty
  | _ => false

/-- The instruction i, executed at s and leaving t, completed (`done` of R112): no fault, no self-loop, not blocked. -/
def completed (i : Instr) (s t : State) : Bool := t.engine == .running && !blocked i s

/-- The end of a step in Running (R112, R120): the timer update when the instruction completed, then the outcome. -/
def finish (i : Instr) (s t : State) : State :=
  if completed i s t then report (beeps t) (timerUpdate t) else report false t

/-- The end of a step that raised a fault before its instruction executed (R112, R256). -/
def failStep (f : Fault) (s : State) : State := report false (s.setEngine (.awaitingReboot f))

/-- A step in Running (R112): fetch, decode, execute, timer update. -/
def stepRunning (s : State) : Result :=
  match fetch s with
  | .error f => .next (failStep f s)
  | .ok op =>
    match decodeWord op with
    | .error _ => .next (failStep (.unknownOpcode op) s)
    | .ok i =>
      match exec i s with
      | .next t => .next (finish i s t)
      | .fault f => .fault f
      | .refused r => .refused r

/-- A `Step` of the engine in any state: R112; in HaltedOnSelfLoop only the timer update (R121); in AwaitingReboot
nothing (R122). -/
def engineStep (s : State) : Result :=
  match s.engine with
  | .running => stepRunning s
  | .haltedOnSelfLoop => .next (report (beeps s) (timerUpdate s))
  | .awaitingReboot _ => .next (report false s)

/-- One host action (R267), each allowed in every engine state. -/
def hostAct (a : HostAction) (s : State) : Result :=
  match a with
  | .step => engineStep s
  | .keyDown k => .next ((s.setKey k true).setReply .nothing)
  | .keyUp k => .next ((s.setKey k false).setReply .nothing)
  | .ackRender => .next ((s.setDirty false).setReply (.frame s.fb))
  | .reboot => .next (reboot Config.rebootProgramBytes s)

/-- The action the host takes next, and the state with it taken: the oldest pending one, or a `Step` when none is pending
(log entry 7). -/
def nextAction (s : State) : HostAction × State :=
  match s.actions with
  | [] => (.step, s)
  | a :: as => (a, s.setActions as)

/-- The host takes its next action. -/
def hostTurn (s : State) : Result := hostAct (nextAction s).1 (nextAction s).2

end Sys2Proof.Machine
end

