-- ==== Sys2Proof/Machine/Step.lean ====
section
/-! DEFINITION. The step of the model: one action of the host (60_exceptions.md R267), a `Step` of the engine when none
is pending. -/

namespace Sys2Proof.Machine

/-- One transition of the machine (R61: one total order of the host's actions and the steps). -/
def step (s : State) : Host.Outcome State Fault Refusal := hostTurn s

/-- s with the opcode of bits w stored where the next step fetches, so that this step runs it (log entries 11 and 15). -/
def State.withFetchWord (s : State) (nbits w : Nat) : State := placeOpcode s (tableOpcode nbits w)

end Sys2Proof.Machine
end

