-- ==== Sys2Proof/Safety.lean ====
section
/-! DEFINITION. What claims are stated in: the machine's invariant, a safe state, and the faults an instruction can raise
of its own as 60_exceptions.md R250 and R260 list them. -/

namespace Sys2Proof.Machine

/-- What every transition keeps: memory in canonical form within 4096 bytes; PC at most 0x10FE (41_control_flow.md R148);
every stack entry an address a call can be fetched at, so at most 0xFFE (R140); the ROM image at most 3584 bytes (R66). -/
abbrev State.Inv (s : State) : Prop :=
  Memory.wf s.params.font s.mem ∧ s.pc.toNat ≤ 0x10FE ∧ (∀ j : Fin 16, s.stack[j].toNat ≤ 0xFFE) ∧
    s.rom.length ≤ maxRomSize

/-- A safe state: no fatal fault has been raised (R256). -/
def State.safe (s : State) : Prop := ∀ f, s.engine ≠ .awaitingReboot f

/-- MemoryFault of the lowest out-of-range address when the n ≥ 1 bytes from a are not all below 4096 (R252). -/
def rangeFault (a n : Nat) : Option Fault := if 4096 < a + n then some (.memoryFault (max a 4096)) else none

/-- KeyFault for a key index above 0xF (R254). -/
def keyIndexFault (k : Byte) : Option Fault := if 0xF < k.toNat then some (.keyFault k) else none

/-- The fault of the instruction's own check (R250, R260), if it raises one: each instruction has at most one kind. -/
def ownFault (i : Instr) (s : State) : Option Fault :=
  match i with
  | .call _ => if s.sp = 16 then some (.stackFault .overflow) else none
  | .ret => if s.sp = 0 then some (.stackFault .underflow) else none
  | .drw _ _ n => if n = 0 then none else rangeFault s.i.toNat n
  | .ldBVx _ => rangeFault s.i.toNat 3
  | .ldMemVx x | .ldVxMem x => rangeFault s.i.toNat (x.val + 1)
  | .skp x | .sknp x => keyIndexFault (s.getV x)
  | .cls | .jp _ | .seVxNn _ _ | .sneVxNn _ _ | .seVxVy _ _ | .sneVxVy _ _ | .ldVxNn _ _ | .addVxNn _ _ => none
  | .ldVxVy _ _ | .orVxVy _ _ | .andVxVy _ _ | .xorVxVy _ _ | .addVxVy _ _ | .subVxVy _ _ => none
  | .shrVx _ _ | .subnVxVy _ _ | .shlVx _ _ | .ldINnn _ | .jpV0Nnn _ | .rndVxNn _ _ => none
  | .ldVxDt _ | .ldVxK _ | .ldDtVx _ | .ldStVx _ | .addIVx _ | .ldFVx _ => none

/-- The bit of a sprite of bytes `bs` drawn with its left column at x0 and its top row at y0 that lands on the cell of
column x and row y (44_display_input.md R211): the pixel of column c and row r lands on column (x0 + c) mod 64 and row
(y0 + r) mod 32, and bit 7 - c of a row byte is column c. -/
def spritePixel (bs : List Byte) (x0 y0 x y : Nat) : Bool :=
  let c := (x + 64 - x0 % 64) % 64
  let r := (y + 32 - y0 % 32) % 32
  decide (c < 8) && ((bs[r]?).getD 0).getLsbD (7 - c)

/-- The instructions that write VF as a flag: "exactly: add-reg, sub, shr, rsub, shl, draw-sprite and add-to-index"
(10_state.md R22). -/
def writesFlag : Instr → Bool
  | .addVxVy _ _ | .subVxVy _ _ | .shrVx _ _ | .subnVxVy _ _ | .shlVx _ _ | .drw _ _ _ | .addIVx _ => true
  | .cls | .ret | .jp _ | .call _ | .seVxNn _ _ | .sneVxNn _ _ | .seVxVy _ _ | .sneVxVy _ _ => false
  | .ldVxNn _ _ | .addVxNn _ _ | .ldVxVy _ _ | .orVxVy _ _ | .andVxVy _ _ | .xorVxVy _ _ => false
  | .ldINnn _ | .jpV0Nnn _ | .rndVxNn _ _ | .skp _ | .sknp _ | .ldVxDt _ | .ldVxK _ => false
  | .ldDtVx _ | .ldStVx _ | .ldFVx _ | .ldBVx _ | .ldMemVx _ | .ldVxMem _ => false

/-- Register r is a destination the instruction names: VX of the instructions of R161–R172, R216 and R230; V0..VX of
load-registers (R195). -/
def namesDest (i : Instr) (r : Reg) : Bool :=
  match i with
  | .ldVxNn x _ | .addVxNn x _ | .rndVxNn x _ | .ldVxDt x | .ldVxK x => r == x
  | .ldVxVy x _ | .orVxVy x _ | .andVxVy x _ | .xorVxVy x _ | .addVxVy x _ | .subVxVy x _ => r == x
  | .shrVx x _ | .subnVxVy x _ | .shlVx x _ => r == x
  | .ldVxMem x => r ≤ x
  | .cls | .ret | .jp _ | .call _ | .seVxNn _ _ | .sneVxNn _ _ | .seVxVy _ _ | .sneVxVy _ _ => false
  | .ldINnn _ | .jpV0Nnn _ | .drw _ _ _ | .skp _ | .sknp _ => false
  | .ldDtVx _ | .ldStVx _ | .addIVx _ | .ldFVx _ | .ldBVx _ | .ldMemVx _ => false

/-- The instructions that store to memory: store-BCD and store-registers (20_memory.md R56). -/
def storesToMemory : Instr → Bool
  | .ldBVx _ | .ldMemVx _ => true
  | _ => false

/-- The instructions that draw: clear-screen and draw-sprite (R30, R31). -/
def drawsToScreen : Instr → Bool
  | .cls | .drw _ _ _ => true
  | _ => false

/-- The instructions that write I (R25). -/
def writesIndex : Instr → Bool
  | .ldINnn _ | .addIVx _ | .ldFVx _ | .ldMemVx _ | .ldVxMem _ => true
  | _ => false

/-- The host's next action is a `Step`, taken from the state u. -/
def stepsFrom (s u : State) : Prop := nextAction s = (.step, u)

end Sys2Proof.Machine
end

