-- ==== Sys2Proof/Certificates/Slice0/Obligations.lean ====
section
/-! DEFINITION. The statements for the provers. Each docstring names the rule of spec/ it formalises; where a rule rests
on a decision of the spec (92_eei_decisions.md) or its general knowledge, the docstring says so with the log entry. -/

open Sys2Proof Sys2Proof.Machine

/-! ### Encoding -/

/-- 30_encoding.md R85, R88 (general knowledge of the spec, log entry 1; ignored bits, log entry 13): decode of encode is
the instruction, as a word and as the two bytes memory holds, whatever follows them. -/
def Obligations.DecodeOfEncodeIsTheInstruction : Prop :=
  ∀ i : Instr, i.wf = true →
    decodeWord (encode i) = .ok i ∧ ∀ rest : List Byte, decode (encodeBytes i ++ rest) = .ok (i, rest)

/-- R84 and R85 (log entry 1): the decoder's case tree and the opcode map give the same instruction for every opcode, and
no opcode is selected by two rows of the map. -/
def Obligations.DecoderAgreesWithTheOpcodeMap : Prop :=
  ∀ op : Word, (decodeWord op).toOption = decodeByMap op ∧ (opcodeMap.filter (·.selects op)).length ≤ 1

/-- R86 (D4, log entry 1): the illegal set, written on the number of the opcode, is exactly what decode answers Unknown
for; everything else decodes to a well-formed instruction. -/
def Obligations.UnknownIsExactlyTheIllegalSet : Prop :=
  ∀ op : Word,
    (decodeWord op = .error (.unknownOpcode op) ↔
      (op.toNat / 4096 = 0x0 ∧ op.toNat % 256 ∉ [0xE0, 0xEE]) ∨
        (op.toNat / 4096 = 0x8 ∧ op.toNat % 16 ∈ [0x8, 0x9, 0xA, 0xB, 0xC, 0xD, 0xF]) ∨
          (op.toNat / 4096 = 0xE ∧ op.toNat % 256 ∉ [0x9E, 0xA1]) ∨
            (op.toNat / 4096 = 0xF ∧
              op.toNat % 256 ∉ [0x07, 0x0A, 0x15, 0x18, 0x1E, 0x29, 0x33, 0x55, 0x65])) ∧
    (decodeWord op ≠ .error (.unknownOpcode op) → ∃ i, decodeWord op = .ok i ∧ i.wf = true)

/-- R87 (D3, log entry 13): two opcodes decode to the same instruction exactly when they agree on the bits decode looks
at; only clear-screen, return, skip-eq-reg and skip-ne-reg have others. -/
def Obligations.OnlyIgnoredBitsAreDropped : Prop :=
  ∀ (op op' : Word) (i : Instr), decodeWord op = .ok i →
    (decodeWord op' = .ok i ↔ op' &&& significantMask i = op &&& significantMask i)

/-- R85 (log entry 1): a few words, written out from the map, decode to the instructions they stand for. -/
def Obligations.SampleWordsDecode : Prop :=
  decodeWord 0x00E0 = .ok .cls ∧ decodeWord 0x1200 = .ok (.jp 0x200) ∧ decodeWord 0x3142 = .ok (.seVxNn 1 0x42) ∧
    decodeWord 0x812E = .ok (.shlVx 1 2) ∧ decodeWord 0xA123 = .ok (.ldINnn 0x123) ∧
      decodeWord 0xD125 = .ok (.drw 1 2 5) ∧ decodeWord 0xEF9E = .ok (.skp 15) ∧
        decodeWord 0xF355 = .ok (.ldMemVx 3) ∧ decodeWord 0xF218 = .ok (.ldStVx 2) ∧
          decodeWord 0xFFFF = .error (.unknownOpcode 0xFFFF)

/-! ### The step -/

/-- 40_engine.md R112, R115 (host actions: log entry 7): when the host's next action is a Step and the two bytes at PC
decode to i, the step is exec of i at that state, then `finish`: the outcome record, with the timer update when the
instruction completed. -/
def Obligations.StepRunsTheDecodedInstruction : Prop :=
  ∀ (s u t : State) (i : Instr), stepsFrom s u → u.engine = .running → u.pc.toNat + 1 < 4096 →
    decode (u.bytesAt u.pc.toNat 2) = .ok (i, []) → exec i u = .next t → step s = .next (finish i u t)

/-- R113: fetch reads M[PC] and M[PC + 1] and composes them big-endian; PC at 4096 or above, and PC = 0xFFF, raise
MemoryFault; fetch does not change PC: the instruction executes from the state fetched from, and a step whose fetch raises
leaves PC. -/
def Obligations.FetchReadsTwoBytesOrFaults : Prop :=
  (∀ s : State,
    (s.pc.toNat + 1 < 4096 → ∃ op, fetch s = .ok op ∧
      op.toNat = (s.byteAt s.pc.toNat).toNat * 256 + (s.byteAt (s.pc.toNat + 1)).toNat) ∧
    (4096 ≤ s.pc.toNat → fetch s = .error (.memoryFault s.pc.toNat)) ∧
    (s.pc.toNat = 0xFFF → fetch s = .error (.memoryFault 0x1000))) ∧
  ∀ s u : State, stepsFrom s u → u.engine = .running →
    (∀ f, fetch u = .error f → ∃ t, step s = .next t ∧ t.pc = u.pc) ∧
    ∀ op i t, fetch u = .ok op → decodeWord op = .ok i → exec i u = .next t → step s = .next (finish i u t)

/-- R113, R114, R256 (D20, log entries 9 and 22): a fetch that raises, and an opcode that no row of the map selects
(UnknownOpcode(op), before any execution), fail the step: it changes the engine and the reply only. -/
def Obligations.FetchAndDecodeFaultsFailTheStep : Prop :=
  (∀ (s u : State) (f : Fault), stepsFrom s u → u.engine = .running → fetch u = .error f →
    step s = .next { u with engine := .awaitingReboot f, reply := .outcome ⟨.failed f, false, u.dirty⟩ }) ∧
  ∀ (s u : State) (op : Word), stepsFrom s u → u.engine = .running → fetch u = .ok op → decodeByMap op = none →
    step s = .next { u with
      engine := .awaitingReboot (.unknownOpcode op)
      reply := .outcome ⟨.failed (.unknownOpcode op), false, u.dirty⟩ }

/-- 40_engine.md R120, 45_timers.md R233, R234 (D18, D19, log entry 21): a completed instruction is followed by one
timer update: each timer falls by one and stays at 0, a beep is requested exactly when ST was 1, the status is Continue,
redraw is dirty; nothing else changes. -/
def Obligations.CompletedStepUpdatesTheTimers : Prop :=
  ∀ (s u t : State) (op : Word) (i : Instr), stepsFrom s u → u.engine = .running → fetch u = .ok op →
    decodeWord op = .ok i → exec i u = .next t → t.engine = .running →
    ((∃ x, i = .ldVxK x) → ∃ k : Key, u.keys[k] = true) →
    ∃ w, step s = .next w ∧ w.dt.toNat = t.dt.toNat - 1 ∧ w.st.toNat = t.st.toNat - 1 ∧
      w.reply = .outcome ⟨.continues, decide (t.st = 1), t.dirty⟩ ∧
      w = { t with dt := w.dt, st := w.st, reply := w.reply }

/-- R119: a step whose instruction is wait-key with no key held changes nothing: no register, no PC, no timer; the status
is Continue; the next step fetches the same wait-key again. -/
def Obligations.BlockedStepChangesNothing : Prop :=
  ∀ (s u : State) (op : Word) (x : Reg), stepsFrom s u → u.engine = .running → fetch u = .ok op →
    decodeWord op = .ok (.ldVxK x) → (∀ k : Key, u.keys[k] = false) →
    ∃ t, step s = .next t ∧ t = { u with reply := .outcome ⟨.continues, false, u.dirty⟩ } ∧ fetch t = .ok op

/-- R118 (D18, D29, log entry 21): the step that meets a jump to itself applies nothing of it, runs no timer update and
halts; and no other instruction halts the engine. -/
def Obligations.OnlyTheSelfJumpHalts : Prop :=
  (∀ (s u : State) (op : Word) (nnn : BitVec 12), stepsFrom s u → u.engine = .running → fetch u = .ok op →
    decodeWord op = .ok (.jp nnn) → nnn.toNat = u.pc.toNat →
    step s = .next { u with engine := .haltedOnSelfLoop, reply := .outcome ⟨.halted, false, u.dirty⟩ }) ∧
  ∀ (i : Instr) (s t : State), s.engine = .running → exec i s = .next t → t.engine = .haltedOnSelfLoop →
    ∃ nnn, i = .jp nnn ∧ nnn.toNat = s.pc.toNat

/-- R121, R122 (D18, D20, log entries 21 and 22): a step in HaltedOnSelfLoop runs the timer update alone; a step in
AwaitingReboot changes nothing and reports the fault again. -/
def Obligations.StepsOutsideRunning : Prop :=
  (∀ s u : State, stepsFrom s u → u.engine = .haltedOnSelfLoop →
    ∃ t, step s = .next t ∧ t.dt.toNat = u.dt.toNat - 1 ∧ t.st.toNat = u.st.toNat - 1 ∧
      t.reply = .outcome ⟨.halted, decide (u.st = 1), u.dirty⟩ ∧
      t = { u with dt := t.dt, st := t.st, reply := t.reply }) ∧
  ∀ (s u : State) (f : Fault), stepsFrom s u → u.engine = .awaitingReboot f →
    step s = .next { u with reply := .outcome ⟨.failed f, false, u.dirty⟩ }

/-- R124 (derived in the spec; every fault is a next state, log entry 9): every state has a next state, so no transition
stops the model. -/
def Obligations.EveryTransitionAnswersANextState : Prop := ∀ s : State, ∃ t, step s = .next t

/-- 41_control_flow.md R148, 20_memory.md R50 (derived in the spec): from every state that meets the invariant, every
transition, host actions included, gives a state that meets it: memory canonical and below 4096, PC ≤ 0x10FE, stack
entries ≤ 0xFFE, the ROM image ≤ 3584 bytes. -/
def Obligations.EveryTransitionKeepsTheInvariant : Prop :=
  ∀ s t : State, s.Inv → step s = .next t → t.Inv

/-- The reset state meets the invariant (R38, R290). -/
def Obligations.ResetMeetsTheInvariant : Prop := State.reset.Inv

/-- 40_engine.md R110, 60_exceptions.md R258 (D20, log entry 22): only a reboot leaves HaltedOnSelfLoop or
AwaitingReboot, and a reboot always gives Running. -/
def Obligations.OnlyRebootLeavesHaltOrFault : Prop :=
  (∀ s t : State, step s = .next t → s.engine ≠ .running → (nextAction s).1 ≠ .reboot → t.engine = s.engine) ∧
  ∀ s : State, (nextAction s).1 = .reboot → ∃ t, step s = .next t ∧ t.engine = .running

/-- R122, R256, R258 (D20, log entries 9 and 22), over whole runs: after a fault, with no reboot among the host's pending
actions, any number of transitions leaves the engine, registers, memory, stack, timers and framebuffer as they were. -/
def Obligations.FaultedRunIsFrozen : Prop :=
  ∀ (n : Nat) (s : State) (f : Fault), s.engine = .awaitingReboot f → HostAction.reboot ∉ s.actions →
    ∃ t, core.run n s = .next t ∧
      t = { s with dirty := t.dirty, keys := t.keys, actions := t.actions, reply := t.reply }

/-- R121, R233, R234, R271 (D18, D19, log entry 21), over whole runs: n halted steps take n from each timer, down to 0,
and the n-th step beeps exactly when ST was n at the start; nothing else changes. -/
def Obligations.HaltedRunCountsTheTimersDown : Prop :=
  ∀ (n : Nat) (s : State), s.engine = .haltedOnSelfLoop → s.actions = [] →
    ∃ t, core.run n s = .next t ∧ t.dt.toNat = s.dt.toNat - n ∧ t.st.toNat = s.st.toNat - n ∧
      (0 < n → t.reply = .outcome ⟨.halted, decide (s.st.toNat = n), s.dirty⟩) ∧
      t = { s with dt := t.dt, st := t.st, reply := t.reply }

/-- 10_state.md R34, 00_scope.md R7: the parameters and the ROM image are fixed for the machine's life. -/
def Obligations.ParametersAndImageNeverChange : Prop :=
  ∀ s t : State, step s = .next t → t.params = s.params ∧ t.rom = s.rom

/-! ### Faults -/

/-- 60_exceptions.md R256, R257 (D20, log entry 9): an instruction that raises a fault applies none of its effects. -/
def Obligations.FaultsArePrecise : Prop :=
  ∀ (i : Instr) (s t : State) (f : Fault), s.engine = .running → exec i s = .next t →
    t.engine = .awaitingReboot f → t = { s with engine := .awaitingReboot f }

/-- R250, R252–R254, R260 (D10, D12, D15, D32; log entries 16, 19, 20): an instruction takes a fault exactly when its own
check raises it. -/
def Obligations.InstructionsFaultExactlyByTheirOwnCheck : Prop :=
  ∀ (i : Instr) (s : State) (f : Fault), s.engine = .running →
    (exec i s = .next { s with engine := .awaitingReboot f } ↔ ownFault i s = some f)

/-- 40_engine.md R115, 60_exceptions.md R260: an instruction whose own check raises nothing executes: the engine goes on
running, but for the jump to itself. -/
def Obligations.InstructionsExecuteWhenTheirCheckPasses : Prop :=
  ∀ (i : Instr) (s : State), s.engine = .running → ownFault i s = none → (∀ nnn, i = .jp nnn → nnn.toNat ≠ s.pc.toNat) →
    ∃ t, exec i s = .next t ∧ t.engine = .running

/-! ### Construction, reboot, host actions -/

/-- 10_state.md R23: the general registers are 0x00 at construction and at every reboot. -/
def Obligations.RegistersResetToZero : Prop :=
  ∀ x : Reg, (∀ (p : Config.Params) (rom : List Byte) (s : State), construct p rom = some s → s.getV x = 0x00) ∧
    (∀ (policy : Config.RebootProgramBytes) (s : State), (reboot policy s).getV x = 0x00) ∧
      State.reset.getV x = 0x00

/-- 70_reset_and_hazards.md R290, R291, 20_memory.md R66 (D5, D23; log entries 23 and 25): a ROM above 3584 bytes is
rejected; any other gives a machine with FONT at 0x000, the ROM at 0x200, 0x00 elsewhere, the values of R38, and the ROM kept
as its image (R34) and the parameters as its own (R7, held in the state: log entries 3 and 26). -/
def Obligations.ConstructionLoadsFontAndRom : Prop :=
  ∀ (p : Config.Params) (rom : List Byte),
    (3584 < rom.length → construct p rom = none) ∧
    (rom.length ≤ 3584 → ∃ s, construct p rom = some s ∧
      (∀ (g : Fin 16) (r : Fin 5), s.byteAt (5 * g.val + r.val) = p.font[g][r]) ∧
      (∀ a, 80 ≤ a → a < 0x200 → s.byteAt a = 0x00) ∧
      (∀ j, j < rom.length → rom[j]? = some (s.byteAt (0x200 + j))) ∧
      (∀ a, 0x200 + rom.length ≤ a → s.byteAt a = 0x00) ∧
      s.pc = 0x0200 ∧ s.i = 0 ∧ s.sp = 0 ∧ (∀ j : Fin 16, s.stack[j] = 0) ∧ s.dt = 0 ∧ s.st = 0 ∧
      (∀ idx, fbGet s.fb idx = false) ∧ s.dirty = false ∧ (∀ k : Key, s.keys[k] = false) ∧ s.engine = .running ∧
      (∀ x : Reg, s.getV x = 0x00) ∧ s.rom = rom ∧ s.params = p)

/-- R292, R293 (D21, D30; log entries 4, 22, 23): a reboot, in any engine state, gives the values of R38 with the program
bytes of the ROM's length from the image or from memory as RebootProgramBytes says, FONT again, 0x00 elsewhere. -/
def Obligations.RebootReinitialises : Prop :=
  (∀ (policy : Config.RebootProgramBytes) (s : State),
    (∀ (g : Fin 16) (r : Fin 5), (reboot policy s).byteAt (5 * g.val + r.val) = s.params.font[g][r]) ∧
    (∀ a, 80 ≤ a → (a < 0x200 ∨ 0x200 + s.rom.length ≤ a) → (reboot policy s).byteAt a = 0x00) ∧
    (∀ j, j < s.rom.length → some ((reboot policy s).byteAt (0x200 + j)) =
      match policy with
      | .reloadImage => s.rom[j]?
      | .keepCurrent => some (s.byteAt (0x200 + j))) ∧
    reboot policy s = { State.reset with
      mem := (reboot policy s).mem, params := s.params, rom := s.rom, draws := s.draws, actions := s.actions }) ∧
  ∀ s u : State, nextAction s = (.reboot, u) → step s = .next (reboot Config.rebootProgramBytes u)

/-- R293: the two values of RebootProgramBytes agree for a machine whose program bytes are still the ROM's. -/
def Obligations.RebootPoliciesAgreeOnUnmodifiedPrograms : Prop :=
  ∀ s : State, (∀ j, j < s.rom.length → s.rom[j]? = some (s.byteAt (0x200 + j))) →
    reboot .reloadImage s = reboot .keepCurrent s

/-- 60_exceptions.md R264, R267 (D30, log entries 7 and 22): a key event sets its key's slot and nothing else, in every
engine state. -/
def Obligations.KeyEventsSetOneSlot : Prop :=
  ∀ (s u : State) (k : Key) (down : Bool), nextAction s = (if down then .keyDown k else .keyUp k, u) →
    ∃ t, step s = .next t ∧ (∀ j : Key, t.keys[j] = if j = k then down else u.keys[j]) ∧
      t = { u with keys := t.keys, reply := .nothing }

/-- R265: the render acknowledgement hands over the framebuffer, row-major, and clears dirty and nothing else; with dirty
clear the core is unchanged (but for the reply, the model's own). -/
def Obligations.RenderAcknowledgementClearsDirty : Prop :=
  ∀ s u : State, nextAction s = (.ackRender, u) →
    step s = .next { u with dirty := false, reply := .frame u.fb } ∧
      (u.dirty = false → step s = .next { u with reply := .frame u.fb }) ∧
      ∀ (x : Fin 64) (y : Fin 32), fbGet u.fb ⟨y.val * 64 + x.val, by omega⟩ = u.fb[y][x]

/-! ### Control transfer -/

/-- 41_control_flow.md R143, R144: skip on an immediate; nothing but PC changes; no fault; a skip from 0xFFE makes the next
fetch fault. -/
def Obligations.SkipOnImmediate : Prop :=
  (∀ (x : Reg) (nn : Byte) (s : State),
    exec (.seVxNn x nn) s = .next { s with pc := if s.getV x = nn then s.pc + 4 else s.pc + 2 } ∧
      exec (.sneVxNn x nn) s = .next { s with pc := if s.getV x ≠ nn then s.pc + 4 else s.pc + 2 } ∧
        (s.pc = 0xFFE → fetch { s with pc := s.pc + 4 } = .error (.memoryFault 0x1002))) ∧
  ∀ op : Word, (op &&& 0xF000 = 0x3000 → decodeWord op = .ok (.seVxNn (xField op) (nnField op))) ∧
    (op &&& 0xF000 = 0x4000 → decodeWord op = .ok (.sneVxNn (xField op) (nnField op)))

/-- R145, R146 (ignored low nibble: D3, log entry 13): skip on two registers; X = Y always, or never, skips. -/
def Obligations.SkipOnRegisters : Prop :=
  ∀ (x y : Reg) (s : State),
    exec (.seVxVy x y) s = .next { s with pc := if s.getV x = s.getV y then s.pc + 4 else s.pc + 2 } ∧
      exec (.sneVxVy x y) s = .next { s with pc := if s.getV x ≠ s.getV y then s.pc + 4 else s.pc + 2 } ∧
        exec (.seVxVy x x) s = .next { s with pc := s.pc + 4 } ∧
          exec (.sneVxVy x x) s = .next { s with pc := s.pc + 2 }

/-- R141: a jump sets PC to NNN and changes nothing else (to 0xFFF too, where the next fetch faults); a jump to itself halts
the engine, PC unchanged, with no timer update at the end of the step. -/
def Obligations.JumpSetsPcOrHalts : Prop :=
  (∀ (nnn : BitVec 12) (s : State),
    (nnn.toNat ≠ s.pc.toNat → ∃ t, exec (.jp nnn) s = .next t ∧ t.pc.toNat = nnn.toNat ∧
      t = { s with pc := t.pc } ∧ (nnn = 0xFFF → fetch t = .error (.memoryFault 0x1000))) ∧
    (nnn.toNat = s.pc.toNat → exec (.jp nnn) s = .next { s with engine := .haltedOnSelfLoop } ∧
      finish (.jp nnn) s { s with engine := .haltedOnSelfLoop } =
        { s with engine := .haltedOnSelfLoop, reply := .outcome ⟨.halted, false, s.dirty⟩ })) ∧
  ∀ op : Word, op &&& 0xF000 = 0x1000 → decodeWord op = .ok (.jp (nnnField op))

/-- R142 (D11, D12, log entry 16): a call with a free entry pushes its own address and goes to NNN; the 17th nested call
takes StackFault(Overflow). -/
def Obligations.CallPushesItsOwnAddress : Prop :=
  ∀ (nnn : BitVec 12) (s : State),
    (s.sp.val < 16 → ∃ t, exec (.call nnn) s = .next t ∧ t.pc.toNat = nnn.toNat ∧ t.sp.val = s.sp.val + 1 ∧
      (∀ j : Fin 16, t.stack[j] = if j.val = s.sp.val then s.pc else s.stack[j]) ∧
      t = { s with stack := t.stack, sp := t.sp, pc := t.pc }) ∧
    (s.sp.val = 16 → exec (.call nnn) s = .next { s with engine := .awaitingReboot (.stackFault .overflow) })

/-- R140 (D11, D12, log entry 16): a return with an entry in use resumes two bytes after the popped address, the entry
keeping its value; with none it takes StackFault(Underflow). -/
def Obligations.ReturnPopsAndAdvances : Prop :=
  ∀ s : State,
    (∀ j : Fin 16, s.sp.val = j.val + 1 → ∃ t, exec .ret s = .next t ∧ t.pc = s.stack[j] + 2 ∧ t.sp.val = j.val ∧
      t = { s with sp := t.sp, pc := t.pc }) ∧
    (s.sp.val = 0 → exec .ret s = .next { s with engine := .awaitingReboot (.stackFault .underflow) })

/-- R140, R142 (D11): wherever the subroutine returns from, with the stack as the call left it, execution resumes at the
instruction after the call, with SP as before the call. -/
def Obligations.ReturnUndoesCall : Prop :=
  ∀ (nnn : BitVec 12) (s t w : State), s.sp.val < 16 → exec (.call nnn) s = .next t →
    w.stack = t.stack → w.sp = t.sp →
    ∃ u, exec .ret w = .next u ∧ u.pc = s.pc + 2 ∧ u.sp = s.sp ∧ u.stack = w.stack

/-- R147 (D9, D29, log entry 18): jump+offset goes to the unmasked sum of NNN and V0, at most 0x10FE, and runs on even
when it lands on itself. -/
def Obligations.JumpOffsetAddsV0 : Prop :=
  ∀ (nnn : BitVec 12) (s : State), ∃ t, exec (.jpV0Nnn nnn) s = .next t ∧
    t.pc.toNat = nnn.toNat + (s.getV 0).toNat ∧ t.pc.toNat ≤ 0x10FE ∧ t = { s with pc := t.pc }

/-! ### Arithmetic -/

/-- 42_arithmetic.md R161, R162: set-imm and add-imm write VX (VF only as the destination) and advance PC. -/
def Obligations.ImmediateLoadAndAdd : Prop :=
  (∀ (x : Reg) (nn : Byte) (s : State),
    (∃ t, exec (.ldVxNn x nn) s = .next t ∧ (∀ z, t.getV z = if z = x then nn else s.getV z) ∧
      t = { s with v := t.v, pc := s.pc + 2 }) ∧
    (∃ t, exec (.addVxNn x nn) s = .next t ∧
      (∀ z, (t.getV z).toNat = if z = x then ((s.getV x).toNat + nn.toNat) % 256 else (s.getV z).toNat) ∧
      t = { s with v := t.v, pc := s.pc + 2 })) ∧
  ∀ op : Word, (op &&& 0xF000 = 0x6000 → decodeWord op = .ok (.ldVxNn (xField op) (nnField op))) ∧
    (op &&& 0xF000 = 0x7000 → decodeWord op = .ok (.addVxNn (xField op) (nnField op)))

/-- R163–R166: set-reg, or, and, xor write VX bit by bit from VX and VY, leave every other register (VF among them)
unchanged, and advance PC. -/
def Obligations.RegisterMoveAndLogic : Prop :=
  (∀ (x y : Reg) (s : State),
    (∃ t, exec (.ldVxVy x y) s = .next t ∧ (∀ z, t.getV z = if z = x then s.getV y else s.getV z) ∧
      t = { s with v := t.v, pc := s.pc + 2 }) ∧
    (∃ t, exec (.orVxVy x y) s = .next t ∧ (∀ z, z ≠ x → t.getV z = s.getV z) ∧
      (∀ k : Fin 8, (t.getV x)[k] = ((s.getV x)[k] || (s.getV y)[k])) ∧ t = { s with v := t.v, pc := s.pc + 2 }) ∧
    (∃ t, exec (.andVxVy x y) s = .next t ∧ (∀ z, z ≠ x → t.getV z = s.getV z) ∧
      (∀ k : Fin 8, (t.getV x)[k] = ((s.getV x)[k] && (s.getV y)[k])) ∧ t = { s with v := t.v, pc := s.pc + 2 }) ∧
    (∃ t, exec (.xorVxVy x y) s = .next t ∧ (∀ z, z ≠ x → t.getV z = s.getV z) ∧
      (∀ k : Fin 8, (t.getV x)[k] = ((s.getV x)[k] ^^ (s.getV y)[k])) ∧ t = { s with v := t.v, pc := s.pc + 2 })) ∧
  ∀ op : Word, (op &&& 0xF00F = 0x8000 → decodeWord op = .ok (.ldVxVy (xField op) (yField op))) ∧
    (op &&& 0xF00F = 0x8001 → decodeWord op = .ok (.orVxVy (xField op) (yField op))) ∧
      (op &&& 0xF00F = 0x8002 → decodeWord op = .ok (.andVxVy (xField op) (yField op))) ∧
        (op &&& 0xF00F = 0x8003 → decodeWord op = .ok (.xorVxVy (xField op) (yField op)))

/-- R160, R167 (D13, D14; log entries 3 and 17): add-reg wraps, and VF, written last, is bit 7 of the result under
PostAddition and the carry under TrueCarry. -/
def Obligations.AddRegisterSetsVf : Prop :=
  ∀ (x y : Reg) (s : State), ∃ t, exec (.addVxVy x y) s = .next t ∧
    (∀ z, (t.getV z).toNat =
      if z = 15 then
        (match s.params.addFlagRule with
          | .postAddition => if 0x80 ≤ ((s.getV x).toNat + (s.getV y).toNat) % 256 then 1 else 0
          | .trueCarry => if 0xFF < (s.getV x).toNat + (s.getV y).toNat then 1 else 0)
      else if z = x then ((s.getV x).toNat + (s.getV y).toNat) % 256
      else (s.getV z).toNat) ∧
    t = { s with v := t.v, pc := s.pc + 2 }

/-- R160, R168, R170 (D13, log entry 17): sub and rsub wrap, and VF, written last, is 1 exactly when there is no
borrow. -/
def Obligations.SubtractionsSetVfToNoBorrow : Prop :=
  ∀ (x y : Reg) (s : State),
    (∃ t, exec (.subVxVy x y) s = .next t ∧
      (∀ z, (t.getV z).toNat =
        if z = 15 then (if (s.getV y).toNat ≤ (s.getV x).toNat then 1 else 0)
        else if z = x then ((s.getV x).toNat + 256 - (s.getV y).toNat) % 256
        else (s.getV z).toNat) ∧
      t = { s with v := t.v, pc := s.pc + 2 }) ∧
    (∃ t, exec (.subnVxVy x y) s = .next t ∧
      (∀ z, (t.getV z).toNat =
        if z = 15 then (if (s.getV x).toNat ≤ (s.getV y).toNat then 1 else 0)
        else if z = x then ((s.getV y).toNat + 256 - (s.getV x).toNat) % 256
        else (s.getV z).toNat) ∧
      t = { s with v := t.v, pc := s.pc + 2 })

/-- R160, R169, R171 (D13, log entry 17): shr and shl move VX one bit, VF last is the bit shifted out, and VY is not
read. -/
def Obligations.ShiftsSetVfToTheBitShiftedOut : Prop :=
  ∀ (x y : Reg) (s : State),
    (∃ t, exec (.shrVx x y) s = .next t ∧
      (∀ z, (t.getV z).toNat =
        if z = 15 then (s.getV x).toNat % 2 else if z = x then (s.getV x).toNat / 2 else (s.getV z).toNat) ∧
      t = { s with v := t.v, pc := s.pc + 2 }) ∧
    (∃ t, exec (.shlVx x y) s = .next t ∧
      (∀ z, (t.getV z).toNat =
        if z = 15 then (s.getV x).toNat / 128
        else if z = x then (s.getV x).toNat * 2 % 256 else (s.getV z).toNat) ∧
      t = { s with v := t.v, pc := s.pc + 2 })

/-- R172 (D17, log entry 5): random writes the step's draw masked by NN, whatever the draw: bits clear in NN are clear in
VX; the next draw is another one. -/
def Obligations.RandomIsTheDrawMasked : Prop :=
  ∀ (x : Reg) (nn : Byte) (s : State), ∃ t, exec (.rndVxNn x nn) s = .next t ∧
    (∀ z, t.getV z = if z = x then Config.randomByte s.draws &&& nn else s.getV z) ∧
    (∀ k : Fin 8, nn[k] = false → (t.getV x)[k] = false) ∧
    t = { s with v := t.v, pc := s.pc + 2, draws := s.draws + 1 }

/-- R22, R160 (D13, log entry 17): after an instruction that writes VF as a flag, VF is 0 or 1, whatever X and Y are. -/
def Obligations.FlagInstructionsLeaveVfZeroOrOne : Prop :=
  ∀ (i : Instr) (s t : State), writesFlag i = true → s.engine = .running → exec i s = .next t →
    t.engine = .running → t.getV 15 = 0 ∨ t.getV 15 = 1

/-! ### Index register and memory -/

/-- 43_index_memory.md R190: set-index puts NNN in I, so I ≤ 0x0FFF, and advances PC. -/
def Obligations.SetIndexLoadsNnn : Prop :=
  (∀ (nnn : BitVec 12) (s : State), ∃ t, exec (.ldINnn nnn) s = .next t ∧ t.i.toNat = nnn.toNat ∧
    t.i.toNat ≤ 0x0FFF ∧ t = { s with i := t.i, pc := s.pc + 2 }) ∧
  ∀ op : Word, op &&& 0xF000 = 0xA000 → decodeWord op = .ok (.ldINnn (nnnField op))

/-- R191, R192 (D9, D13, D24, D25; log entries 17 and 18): add-to-index adds the old VX modulo 2^16 and writes VF last, 1
exactly when the new I is above 0x0FFF; font-address puts VX · 5 in I, VX unmasked. -/
def Obligations.IndexArithmetic : Prop :=
  ∀ (x : Reg) (s : State),
    (∃ t, exec (.addIVx x) s = .next t ∧ t.i.toNat = (s.i.toNat + (s.getV x).toNat) % 65536 ∧
      (∀ z, t.getV z = if z = 15 then (if 0x0FFF < t.i.toNat then 1 else 0) else s.getV z) ∧
      t = { s with i := t.i, v := t.v, pc := s.pc + 2 }) ∧
    (∃ t, exec (.ldFVx x) s = .next t ∧ t.i.toNat = (s.getV x).toNat * 5 ∧ t = { s with i := t.i, pc := s.pc + 2 })

/-- R193 (D10, log entry 19): store-BCD writes the three digits at I, I + 1, I + 2 and no other byte; I is unchanged; with
I + 2 ≥ 4096 it takes MemoryFault(max(I, 4096)) with nothing written. -/
def Obligations.StoreBcdWritesThreeDigits : Prop :=
  ∀ (x : Reg) (s : State),
    (s.indexAddr + 2 < 4096 → ∃ t, exec (.ldBVx x) s = .next t ∧
      (t.byteAt s.indexAddr).toNat = (s.getV x).toNat / 100 ∧
      (t.byteAt (s.indexAddr + 1)).toNat = (s.getV x).toNat / 10 % 10 ∧
      (t.byteAt (s.indexAddr + 2)).toNat = (s.getV x).toNat % 10 ∧
      (∀ a, (a < s.indexAddr ∨ s.indexAddr + 3 ≤ a) → t.byteAt a = s.byteAt a) ∧
      t = { s with mem := t.mem, pc := s.pc + 2 }) ∧
    (4096 ≤ s.indexAddr + 2 →
      exec (.ldBVx x) s = .next { s with engine := .awaitingReboot (.memoryFault (max s.indexAddr 4096)) })

/-- R194 (D10, D24, log entry 19): store-registers writes V0..VX at I..I + X and no other byte, and moves I past them;
with I + X ≥ 4096 it takes MemoryFault with nothing written and I unchanged. -/
def Obligations.StoreRegistersWritesV0ToVx : Prop :=
  ∀ (x : Reg) (s : State),
    (s.indexAddr + x.val < 4096 → ∃ t, exec (.ldMemVx x) s = .next t ∧
      (∀ j : Reg, j ≤ x → t.byteAt (s.indexAddr + j.val) = s.getV j) ∧
      (∀ a, (a < s.indexAddr ∨ s.indexAddr + x.val < a) → t.byteAt a = s.byteAt a) ∧
      t.i.toNat = s.i.toNat + x.val + 1 ∧ t = { s with mem := t.mem, i := t.i, pc := s.pc + 2 }) ∧
    (4096 ≤ s.indexAddr + x.val →
      exec (.ldMemVx x) s = .next { s with engine := .awaitingReboot (.memoryFault (max s.indexAddr 4096)) })

/-- R195 (D10, D24, log entry 19): load-registers reads M[I..I + X] into V0..VX, leaves the registers above X and all of
memory unchanged, and moves I past the bytes; with I + X ≥ 4096 it takes MemoryFault with no register loaded. -/
def Obligations.LoadRegistersReadsV0ToVx : Prop :=
  ∀ (x : Reg) (s : State),
    (s.indexAddr + x.val < 4096 → ∃ t, exec (.ldVxMem x) s = .next t ∧
      (∀ j : Reg, t.getV j = if j ≤ x then s.byteAt (s.indexAddr + j.val) else s.getV j) ∧
      (∀ a, t.byteAt a = s.byteAt a) ∧
      t.i.toNat = s.i.toNat + x.val + 1 ∧ t = { s with v := t.v, i := t.i, pc := s.pc + 2 }) ∧
    (4096 ≤ s.indexAddr + x.val →
      exec (.ldVxMem x) s = .next { s with engine := .awaitingReboot (.memoryFault (max s.indexAddr 4096)) })

/-- 95_test_vectors.md E5 (R194, R195): registers stored and then loaded, into whatever registers, from the same I come
back, and I ends the same in both directions. -/
def Obligations.StoreThenLoadRegistersRoundTrip : Prop :=
  ∀ (x : Reg) (s t w : State), s.indexAddr + x.val < 4096 → exec (.ldMemVx x) s = .next t →
    w.i = s.i → w.mem = t.mem → w.params = t.params →
    ∃ u, exec (.ldVxMem x) w = .next u ∧ (∀ j : Reg, j ≤ x → u.getV j = s.getV j) ∧ u.i = t.i

/-! ### Display, keypad, timers -/

/-- 44_display_input.md R210: clear-screen puts 0 in every cell, raises dirty and advances PC; VF is unchanged. -/
def Obligations.ClearScreenZeroesEveryCell : Prop :=
  (∀ s : State, ∃ t, exec .cls s = .next t ∧ (∀ idx, fbGet t.fb idx = false) ∧
    t = { s with fb := t.fb, dirty := true, pc := s.pc + 2 }) ∧
  ∀ op : Word, op &&& 0xF0FF = 0x00E0 → decodeWord op = .ok .cls

/-- R211, R212 (D7, D10, D13, D35; log entries 17, 19, 24): draw-sprite XORs into each cell (column x, row y, read at index
64·y + x) the sprite bit that lands on it (both axes wrapping), sets VF to 1 exactly when a set cell met a set bit, raises dirty, leaves I, memory and the other
registers unchanged; a sprite byte out of range takes MemoryFault before any cell changes. -/
def Obligations.DrawSpriteXorsEveryCell : Prop :=
  ∀ (x y : Reg) (n : Nat) (s : State), n ≤ 15 →
    (n = 0 ∨ s.indexAddr + n ≤ 4096 → ∃ t, exec (.drw x y n) s = .next t ∧
      (∀ (cx : Fin 64) (cy : Fin 32), fbGet t.fb ⟨cy.val * 64 + cx.val, by omega⟩ =
        (fbGet s.fb ⟨cy.val * 64 + cx.val, by omega⟩ ^^
          spritePixel (s.bytesAt s.indexAddr n) (s.getV x).toNat (s.getV y).toNat cx.val cy.val)) ∧
      (t.getV 15 = 0 ∨ t.getV 15 = 1) ∧
      (t.getV 15 = 1 ↔ ∃ (cx : Fin 64) (cy : Fin 32), fbGet s.fb ⟨cy.val * 64 + cx.val, by omega⟩ = true ∧
        spritePixel (s.bytesAt s.indexAddr n) (s.getV x).toNat (s.getV y).toNat cx.val cy.val = true) ∧
      (∀ z, z ≠ 15 → t.getV z = s.getV z) ∧ (∀ a, t.byteAt a = s.byteAt a) ∧
      t = { s with fb := t.fb, dirty := true, v := t.v, pc := s.pc + 2 }) ∧
    (n ≠ 0 → 4096 < s.indexAddr + n →
      exec (.drw x y n) s = .next { s with engine := .awaitingReboot (.memoryFault (max s.indexAddr 4096)) })

/-- 95_test_vectors.md E6 (R212, C13): drawing the same sprite twice at the same place restores the framebuffer, for every
sprite and every prior framebuffer. -/
def Obligations.DrawingTwiceRestoresTheFramebuffer : Prop :=
  ∀ (x y : Reg) (n : Nat) (s t w u : State), n ≤ 15 → exec (.drw x y n) s = .next t → s.engine = .running →
    t.engine = .running → w = { t with v := s.v } → exec (.drw x y n) w = .next u → u.fb = s.fb

/-- R213–R215 (D15, log entry 20): the key skips test the slot VX names; a VX above 0xF takes KeyFault(VX) and changes
nothing. -/
def Obligations.KeySkipsTestTheNamedKey : Prop :=
  ∀ (x : Reg) (s : State),
    (∀ k : Key, (s.getV x).toNat = k.val →
      exec (.skp x) s = .next { s with pc := if s.keys[k] = true then s.pc + 4 else s.pc + 2 } ∧
        exec (.sknp x) s = .next { s with pc := if s.keys[k] = false then s.pc + 4 else s.pc + 2 }) ∧
    (0xF < (s.getV x).toNat →
      exec (.skp x) s = .next { s with engine := .awaitingReboot (.keyFault (s.getV x)) } ∧
        exec (.sknp x) s = .next { s with engine := .awaitingReboot (.keyFault (s.getV x)) })

/-- R216 (D16, log entry 6): wait-key with a key held stores the index of a held key, whichever the draw takes, and
advances PC; with no key held it changes nothing. -/
def Obligations.WaitKeyStoresAHeldKey : Prop :=
  ∀ (x : Reg) (s : State),
    ((∃ k : Key, s.keys[k] = true) → ∃ (t : State) (k : Key), exec (.ldVxK x) s = .next t ∧ s.keys[k] = true ∧
      (∀ z, (t.getV z).toNat = if z = x then k.val else (s.getV z).toNat) ∧
      t = { s with v := t.v, pc := s.pc + 2, draws := s.draws + 1 }) ∧
    ((∀ k : Key, s.keys[k] = false) → exec (.ldVxK x) s = .next s)

/-- 45_timers.md R230: get-delay reads DT as it is before the step's timer update, which then decrements it. -/
def Obligations.GetDelayReadsDtBeforeTheUpdate : Prop :=
  (∀ (x : Reg) (s : State), ∃ t, exec (.ldVxDt x) s = .next t ∧ (∀ z, t.getV z = if z = x then s.dt else s.getV z) ∧
    t = { s with v := t.v, pc := s.pc + 2 } ∧
    (s.engine = .running → (finish (.ldVxDt x) s t).dt.toNat = s.dt.toNat - 1)) ∧
  ∀ op : Word, op &&& 0xF0FF = 0xF007 → decodeWord op = .ok (.ldVxDt (xField op))

/-- R231, R232 (log entry 21): set-delay and set-sound copy VX to DT and ST; the same step's timer update then runs on the
new value, and set-sound of 1 beeps in that step. -/
def Obligations.TimerLoadsAreDecrementedInTheSameStep : Prop :=
  ∀ (x : Reg) (s : State),
    (exec (.ldDtVx x) s = .next { s with dt := s.getV x, pc := s.pc + 2 } ∧
      (s.engine = .running →
        (finish (.ldDtVx x) s { s with dt := s.getV x, pc := s.pc + 2 }).dt.toNat = (s.getV x).toNat - 1)) ∧
    (exec (.ldStVx x) s = .next { s with st := s.getV x, pc := s.pc + 2 } ∧
      (s.engine = .running →
        (finish (.ldStVx x) s { s with st := s.getV x, pc := s.pc + 2 }).st.toNat = (s.getV x).toNat - 1 ∧
        (finish (.ldStVx x) s { s with st := s.getV x, pc := s.pc + 2 }).reply =
          .outcome ⟨.continues, decide (s.getV x = 1), s.dirty⟩))

/-! ### Frames over all instructions -/

/-- 10_state.md R21, R22: a register changes only as a destination the instruction names, or as VF for an instruction that
writes it as a flag. -/
def Obligations.RegistersChangeOnlyAsDestinationOrFlag : Prop :=
  ∀ (i : Instr) (s t : State) (r : Reg), exec i s = .next t → namesDest i r = false →
    (r ≠ 15 ∨ writesFlag i = false) → t.getV r = s.getV r

/-- 20_memory.md R56: an instruction other than store-BCD and store-registers leaves every byte of memory unchanged. -/
def Obligations.OnlyStoresChangeMemory : Prop :=
  ∀ (i : Instr) (s t : State), exec i s = .next t → storesToMemory i = false → ∀ a, t.byteAt a = s.byteAt a

/-- 10_state.md R25–R31: I, SP, the stack, DT, ST, FB and dirty are written only by the instructions their rules list. -/
def Obligations.EachComponentHasOnlyItsListedWriters : Prop :=
  ∀ (i : Instr) (s t : State), exec i s = .next t →
    (writesIndex i = false → t.i = s.i) ∧
    ((∀ nnn, i ≠ .call nnn) → t.stack = s.stack) ∧
    ((∀ nnn, i ≠ .call nnn) → i ≠ .ret → t.sp = s.sp) ∧
    ((∀ x, i ≠ .ldDtVx x) → t.dt = s.dt) ∧
    ((∀ x, i ≠ .ldStVx x) → t.st = s.st) ∧
    (drawsToScreen i = false → t.fb = s.fb ∧ t.dirty = s.dirty)

/-- 10_state.md R32, R34 (log entries 7 and 8): no instruction writes the keypad, the parameters, the ROM image, or the
model's host-side fields. -/
def Obligations.NoInstructionWritesHostOwnedState : Prop :=
  ∀ (i : Instr) (s t : State), exec i s = .next t →
    t.keys = s.keys ∧ t.params = s.params ∧ t.rom = s.rom ∧ t.actions = s.actions ∧ t.reply = s.reply

/-- 40_engine.md R124: only random and wait-key read a draw: for every other instruction the result is the same whatever
the draws are. -/
def Obligations.OnlyRandomAndWaitKeyReadADraw : Prop :=
  ∀ (i : Instr) (s t : State) (d : Nat), (∀ x nn, i ≠ .rndVxNn x nn) → (∀ x, i ≠ .ldVxK x) →
    exec i s = .next t → exec i { s with draws := d } = .next { t with draws := d }
end

