-- ==== Sys2Proof/Laws/State.lean ====
section
/-! SUPPORT. One lemma per field per update of State, each true by rfl: no later proof unfolds a record update. -/

namespace Sys2Proof.Machine

@[simp] theorem State.setMem_mem (s : State) (m : Memory) : (s.setMem m).mem = m := rfl
@[simp] theorem State.setMem_v (s : State) (m : Memory) : (s.setMem m).v = s.v := rfl
@[simp] theorem State.setMem_i (s : State) (m : Memory) : (s.setMem m).i = s.i := rfl
@[simp] theorem State.setMem_pc (s : State) (m : Memory) : (s.setMem m).pc = s.pc := rfl
@[simp] theorem State.setMem_stack (s : State) (m : Memory) : (s.setMem m).stack = s.stack := rfl
@[simp] theorem State.setMem_sp (s : State) (m : Memory) : (s.setMem m).sp = s.sp := rfl
@[simp] theorem State.setMem_dt (s : State) (m : Memory) : (s.setMem m).dt = s.dt := rfl
@[simp] theorem State.setMem_st (s : State) (m : Memory) : (s.setMem m).st = s.st := rfl
@[simp] theorem State.setMem_fb (s : State) (m : Memory) : (s.setMem m).fb = s.fb := rfl
@[simp] theorem State.setMem_dirty (s : State) (m : Memory) : (s.setMem m).dirty = s.dirty := rfl
@[simp] theorem State.setMem_keys (s : State) (m : Memory) : (s.setMem m).keys = s.keys := rfl
@[simp] theorem State.setMem_engine (s : State) (m : Memory) : (s.setMem m).engine = s.engine := rfl
@[simp] theorem State.setMem_params (s : State) (m : Memory) : (s.setMem m).params = s.params := rfl
@[simp] theorem State.setMem_rom (s : State) (m : Memory) : (s.setMem m).rom = s.rom := rfl
@[simp] theorem State.setMem_draws (s : State) (m : Memory) : (s.setMem m).draws = s.draws := rfl
@[simp] theorem State.setMem_actions (s : State) (m : Memory) : (s.setMem m).actions = s.actions := rfl
@[simp] theorem State.setMem_reply (s : State) (m : Memory) : (s.setMem m).reply = s.reply := rfl

@[simp] theorem State.setV_mem (s : State) (x : Reg) (b : Byte) : (s.setV x b).mem = s.mem := rfl
@[simp] theorem State.setV_v (s : State) (x : Reg) (b : Byte) : (s.setV x b).v = s.v.set x b := rfl
@[simp] theorem State.setV_i (s : State) (x : Reg) (b : Byte) : (s.setV x b).i = s.i := rfl
@[simp] theorem State.setV_pc (s : State) (x : Reg) (b : Byte) : (s.setV x b).pc = s.pc := rfl
@[simp] theorem State.setV_stack (s : State) (x : Reg) (b : Byte) : (s.setV x b).stack = s.stack := rfl
@[simp] theorem State.setV_sp (s : State) (x : Reg) (b : Byte) : (s.setV x b).sp = s.sp := rfl
@[simp] theorem State.setV_dt (s : State) (x : Reg) (b : Byte) : (s.setV x b).dt = s.dt := rfl
@[simp] theorem State.setV_st (s : State) (x : Reg) (b : Byte) : (s.setV x b).st = s.st := rfl
@[simp] theorem State.setV_fb (s : State) (x : Reg) (b : Byte) : (s.setV x b).fb = s.fb := rfl
@[simp] theorem State.setV_dirty (s : State) (x : Reg) (b : Byte) : (s.setV x b).dirty = s.dirty := rfl
@[simp] theorem State.setV_keys (s : State) (x : Reg) (b : Byte) : (s.setV x b).keys = s.keys := rfl
@[simp] theorem State.setV_engine (s : State) (x : Reg) (b : Byte) : (s.setV x b).engine = s.engine := rfl
@[simp] theorem State.setV_params (s : State) (x : Reg) (b : Byte) : (s.setV x b).params = s.params := rfl
@[simp] theorem State.setV_rom (s : State) (x : Reg) (b : Byte) : (s.setV x b).rom = s.rom := rfl
@[simp] theorem State.setV_draws (s : State) (x : Reg) (b : Byte) : (s.setV x b).draws = s.draws := rfl
@[simp] theorem State.setV_actions (s : State) (x : Reg) (b : Byte) : (s.setV x b).actions = s.actions := rfl
@[simp] theorem State.setV_reply (s : State) (x : Reg) (b : Byte) : (s.setV x b).reply = s.reply := rfl

@[simp] theorem State.setVs_mem (s : State) (vs : Vector Byte 16) : (s.setVs vs).mem = s.mem := rfl
@[simp] theorem State.setVs_v (s : State) (vs : Vector Byte 16) : (s.setVs vs).v = vs := rfl
@[simp] theorem State.setVs_i (s : State) (vs : Vector Byte 16) : (s.setVs vs).i = s.i := rfl
@[simp] theorem State.setVs_pc (s : State) (vs : Vector Byte 16) : (s.setVs vs).pc = s.pc := rfl
@[simp] theorem State.setVs_stack (s : State) (vs : Vector Byte 16) : (s.setVs vs).stack = s.stack := rfl
@[simp] theorem State.setVs_sp (s : State) (vs : Vector Byte 16) : (s.setVs vs).sp = s.sp := rfl
@[simp] theorem State.setVs_dt (s : State) (vs : Vector Byte 16) : (s.setVs vs).dt = s.dt := rfl
@[simp] theorem State.setVs_st (s : State) (vs : Vector Byte 16) : (s.setVs vs).st = s.st := rfl
@[simp] theorem State.setVs_fb (s : State) (vs : Vector Byte 16) : (s.setVs vs).fb = s.fb := rfl
@[simp] theorem State.setVs_dirty (s : State) (vs : Vector Byte 16) : (s.setVs vs).dirty = s.dirty := rfl
@[simp] theorem State.setVs_keys (s : State) (vs : Vector Byte 16) : (s.setVs vs).keys = s.keys := rfl
@[simp] theorem State.setVs_engine (s : State) (vs : Vector Byte 16) : (s.setVs vs).engine = s.engine := rfl
@[simp] theorem State.setVs_params (s : State) (vs : Vector Byte 16) : (s.setVs vs).params = s.params := rfl
@[simp] theorem State.setVs_rom (s : State) (vs : Vector Byte 16) : (s.setVs vs).rom = s.rom := rfl
@[simp] theorem State.setVs_draws (s : State) (vs : Vector Byte 16) : (s.setVs vs).draws = s.draws := rfl
@[simp] theorem State.setVs_actions (s : State) (vs : Vector Byte 16) : (s.setVs vs).actions = s.actions := rfl
@[simp] theorem State.setVs_reply (s : State) (vs : Vector Byte 16) : (s.setVs vs).reply = s.reply := rfl

@[simp] theorem State.setI_mem (s : State) (a : Word) : (s.setI a).mem = s.mem := rfl
@[simp] theorem State.setI_v (s : State) (a : Word) : (s.setI a).v = s.v := rfl
@[simp] theorem State.setI_i (s : State) (a : Word) : (s.setI a).i = a := rfl
@[simp] theorem State.setI_pc (s : State) (a : Word) : (s.setI a).pc = s.pc := rfl
@[simp] theorem State.setI_stack (s : State) (a : Word) : (s.setI a).stack = s.stack := rfl
@[simp] theorem State.setI_sp (s : State) (a : Word) : (s.setI a).sp = s.sp := rfl
@[simp] theorem State.setI_dt (s : State) (a : Word) : (s.setI a).dt = s.dt := rfl
@[simp] theorem State.setI_st (s : State) (a : Word) : (s.setI a).st = s.st := rfl
@[simp] theorem State.setI_fb (s : State) (a : Word) : (s.setI a).fb = s.fb := rfl
@[simp] theorem State.setI_dirty (s : State) (a : Word) : (s.setI a).dirty = s.dirty := rfl
@[simp] theorem State.setI_keys (s : State) (a : Word) : (s.setI a).keys = s.keys := rfl
@[simp] theorem State.setI_engine (s : State) (a : Word) : (s.setI a).engine = s.engine := rfl
@[simp] theorem State.setI_params (s : State) (a : Word) : (s.setI a).params = s.params := rfl
@[simp] theorem State.setI_rom (s : State) (a : Word) : (s.setI a).rom = s.rom := rfl
@[simp] theorem State.setI_draws (s : State) (a : Word) : (s.setI a).draws = s.draws := rfl
@[simp] theorem State.setI_actions (s : State) (a : Word) : (s.setI a).actions = s.actions := rfl
@[simp] theorem State.setI_reply (s : State) (a : Word) : (s.setI a).reply = s.reply := rfl

@[simp] theorem State.setPc_mem (s : State) (a : Word) : (s.setPc a).mem = s.mem := rfl
@[simp] theorem State.setPc_v (s : State) (a : Word) : (s.setPc a).v = s.v := rfl
@[simp] theorem State.setPc_i (s : State) (a : Word) : (s.setPc a).i = s.i := rfl
@[simp] theorem State.setPc_pc (s : State) (a : Word) : (s.setPc a).pc = a := rfl
@[simp] theorem State.setPc_stack (s : State) (a : Word) : (s.setPc a).stack = s.stack := rfl
@[simp] theorem State.setPc_sp (s : State) (a : Word) : (s.setPc a).sp = s.sp := rfl
@[simp] theorem State.setPc_dt (s : State) (a : Word) : (s.setPc a).dt = s.dt := rfl
@[simp] theorem State.setPc_st (s : State) (a : Word) : (s.setPc a).st = s.st := rfl
@[simp] theorem State.setPc_fb (s : State) (a : Word) : (s.setPc a).fb = s.fb := rfl
@[simp] theorem State.setPc_dirty (s : State) (a : Word) : (s.setPc a).dirty = s.dirty := rfl
@[simp] theorem State.setPc_keys (s : State) (a : Word) : (s.setPc a).keys = s.keys := rfl
@[simp] theorem State.setPc_engine (s : State) (a : Word) : (s.setPc a).engine = s.engine := rfl
@[simp] theorem State.setPc_params (s : State) (a : Word) : (s.setPc a).params = s.params := rfl
@[simp] theorem State.setPc_rom (s : State) (a : Word) : (s.setPc a).rom = s.rom := rfl
@[simp] theorem State.setPc_draws (s : State) (a : Word) : (s.setPc a).draws = s.draws := rfl
@[simp] theorem State.setPc_actions (s : State) (a : Word) : (s.setPc a).actions = s.actions := rfl
@[simp] theorem State.setPc_reply (s : State) (a : Word) : (s.setPc a).reply = s.reply := rfl

@[simp] theorem State.setStack_mem (s : State) (k : Vector Word 16) : (s.setStack k).mem = s.mem := rfl
@[simp] theorem State.setStack_v (s : State) (k : Vector Word 16) : (s.setStack k).v = s.v := rfl
@[simp] theorem State.setStack_i (s : State) (k : Vector Word 16) : (s.setStack k).i = s.i := rfl
@[simp] theorem State.setStack_pc (s : State) (k : Vector Word 16) : (s.setStack k).pc = s.pc := rfl
@[simp] theorem State.setStack_stack (s : State) (k : Vector Word 16) : (s.setStack k).stack = k := rfl
@[simp] theorem State.setStack_sp (s : State) (k : Vector Word 16) : (s.setStack k).sp = s.sp := rfl
@[simp] theorem State.setStack_dt (s : State) (k : Vector Word 16) : (s.setStack k).dt = s.dt := rfl
@[simp] theorem State.setStack_st (s : State) (k : Vector Word 16) : (s.setStack k).st = s.st := rfl
@[simp] theorem State.setStack_fb (s : State) (k : Vector Word 16) : (s.setStack k).fb = s.fb := rfl
@[simp] theorem State.setStack_dirty (s : State) (k : Vector Word 16) : (s.setStack k).dirty = s.dirty := rfl
@[simp] theorem State.setStack_keys (s : State) (k : Vector Word 16) : (s.setStack k).keys = s.keys := rfl
@[simp] theorem State.setStack_engine (s : State) (k : Vector Word 16) : (s.setStack k).engine = s.engine := rfl
@[simp] theorem State.setStack_params (s : State) (k : Vector Word 16) : (s.setStack k).params = s.params := rfl
@[simp] theorem State.setStack_rom (s : State) (k : Vector Word 16) : (s.setStack k).rom = s.rom := rfl
@[simp] theorem State.setStack_draws (s : State) (k : Vector Word 16) : (s.setStack k).draws = s.draws := rfl
@[simp] theorem State.setStack_actions (s : State) (k : Vector Word 16) : (s.setStack k).actions = s.actions := rfl
@[simp] theorem State.setStack_reply (s : State) (k : Vector Word 16) : (s.setStack k).reply = s.reply := rfl

@[simp] theorem State.setSp_mem (s : State) (n : Fin 17) : (s.setSp n).mem = s.mem := rfl
@[simp] theorem State.setSp_v (s : State) (n : Fin 17) : (s.setSp n).v = s.v := rfl
@[simp] theorem State.setSp_i (s : State) (n : Fin 17) : (s.setSp n).i = s.i := rfl
@[simp] theorem State.setSp_pc (s : State) (n : Fin 17) : (s.setSp n).pc = s.pc := rfl
@[simp] theorem State.setSp_stack (s : State) (n : Fin 17) : (s.setSp n).stack = s.stack := rfl
@[simp] theorem State.setSp_sp (s : State) (n : Fin 17) : (s.setSp n).sp = n := rfl
@[simp] theorem State.setSp_dt (s : State) (n : Fin 17) : (s.setSp n).dt = s.dt := rfl
@[simp] theorem State.setSp_st (s : State) (n : Fin 17) : (s.setSp n).st = s.st := rfl
@[simp] theorem State.setSp_fb (s : State) (n : Fin 17) : (s.setSp n).fb = s.fb := rfl
@[simp] theorem State.setSp_dirty (s : State) (n : Fin 17) : (s.setSp n).dirty = s.dirty := rfl
@[simp] theorem State.setSp_keys (s : State) (n : Fin 17) : (s.setSp n).keys = s.keys := rfl
@[simp] theorem State.setSp_engine (s : State) (n : Fin 17) : (s.setSp n).engine = s.engine := rfl
@[simp] theorem State.setSp_params (s : State) (n : Fin 17) : (s.setSp n).params = s.params := rfl
@[simp] theorem State.setSp_rom (s : State) (n : Fin 17) : (s.setSp n).rom = s.rom := rfl
@[simp] theorem State.setSp_draws (s : State) (n : Fin 17) : (s.setSp n).draws = s.draws := rfl
@[simp] theorem State.setSp_actions (s : State) (n : Fin 17) : (s.setSp n).actions = s.actions := rfl
@[simp] theorem State.setSp_reply (s : State) (n : Fin 17) : (s.setSp n).reply = s.reply := rfl

@[simp] theorem State.setDt_mem (s : State) (b : Byte) : (s.setDt b).mem = s.mem := rfl
@[simp] theorem State.setDt_v (s : State) (b : Byte) : (s.setDt b).v = s.v := rfl
@[simp] theorem State.setDt_i (s : State) (b : Byte) : (s.setDt b).i = s.i := rfl
@[simp] theorem State.setDt_pc (s : State) (b : Byte) : (s.setDt b).pc = s.pc := rfl
@[simp] theorem State.setDt_stack (s : State) (b : Byte) : (s.setDt b).stack = s.stack := rfl
@[simp] theorem State.setDt_sp (s : State) (b : Byte) : (s.setDt b).sp = s.sp := rfl
@[simp] theorem State.setDt_dt (s : State) (b : Byte) : (s.setDt b).dt = b := rfl
@[simp] theorem State.setDt_st (s : State) (b : Byte) : (s.setDt b).st = s.st := rfl
@[simp] theorem State.setDt_fb (s : State) (b : Byte) : (s.setDt b).fb = s.fb := rfl
@[simp] theorem State.setDt_dirty (s : State) (b : Byte) : (s.setDt b).dirty = s.dirty := rfl
@[simp] theorem State.setDt_keys (s : State) (b : Byte) : (s.setDt b).keys = s.keys := rfl
@[simp] theorem State.setDt_engine (s : State) (b : Byte) : (s.setDt b).engine = s.engine := rfl
@[simp] theorem State.setDt_params (s : State) (b : Byte) : (s.setDt b).params = s.params := rfl
@[simp] theorem State.setDt_rom (s : State) (b : Byte) : (s.setDt b).rom = s.rom := rfl
@[simp] theorem State.setDt_draws (s : State) (b : Byte) : (s.setDt b).draws = s.draws := rfl
@[simp] theorem State.setDt_actions (s : State) (b : Byte) : (s.setDt b).actions = s.actions := rfl
@[simp] theorem State.setDt_reply (s : State) (b : Byte) : (s.setDt b).reply = s.reply := rfl

@[simp] theorem State.setSt_mem (s : State) (b : Byte) : (s.setSt b).mem = s.mem := rfl
@[simp] theorem State.setSt_v (s : State) (b : Byte) : (s.setSt b).v = s.v := rfl
@[simp] theorem State.setSt_i (s : State) (b : Byte) : (s.setSt b).i = s.i := rfl
@[simp] theorem State.setSt_pc (s : State) (b : Byte) : (s.setSt b).pc = s.pc := rfl
@[simp] theorem State.setSt_stack (s : State) (b : Byte) : (s.setSt b).stack = s.stack := rfl
@[simp] theorem State.setSt_sp (s : State) (b : Byte) : (s.setSt b).sp = s.sp := rfl
@[simp] theorem State.setSt_dt (s : State) (b : Byte) : (s.setSt b).dt = s.dt := rfl
@[simp] theorem State.setSt_st (s : State) (b : Byte) : (s.setSt b).st = b := rfl
@[simp] theorem State.setSt_fb (s : State) (b : Byte) : (s.setSt b).fb = s.fb := rfl
@[simp] theorem State.setSt_dirty (s : State) (b : Byte) : (s.setSt b).dirty = s.dirty := rfl
@[simp] theorem State.setSt_keys (s : State) (b : Byte) : (s.setSt b).keys = s.keys := rfl
@[simp] theorem State.setSt_engine (s : State) (b : Byte) : (s.setSt b).engine = s.engine := rfl
@[simp] theorem State.setSt_params (s : State) (b : Byte) : (s.setSt b).params = s.params := rfl
@[simp] theorem State.setSt_rom (s : State) (b : Byte) : (s.setSt b).rom = s.rom := rfl
@[simp] theorem State.setSt_draws (s : State) (b : Byte) : (s.setSt b).draws = s.draws := rfl
@[simp] theorem State.setSt_actions (s : State) (b : Byte) : (s.setSt b).actions = s.actions := rfl
@[simp] theorem State.setSt_reply (s : State) (b : Byte) : (s.setSt b).reply = s.reply := rfl

@[simp] theorem State.setFb_mem (s : State) (f : Framebuffer) : (s.setFb f).mem = s.mem := rfl
@[simp] theorem State.setFb_v (s : State) (f : Framebuffer) : (s.setFb f).v = s.v := rfl
@[simp] theorem State.setFb_i (s : State) (f : Framebuffer) : (s.setFb f).i = s.i := rfl
@[simp] theorem State.setFb_pc (s : State) (f : Framebuffer) : (s.setFb f).pc = s.pc := rfl
@[simp] theorem State.setFb_stack (s : State) (f : Framebuffer) : (s.setFb f).stack = s.stack := rfl
@[simp] theorem State.setFb_sp (s : State) (f : Framebuffer) : (s.setFb f).sp = s.sp := rfl
@[simp] theorem State.setFb_dt (s : State) (f : Framebuffer) : (s.setFb f).dt = s.dt := rfl
@[simp] theorem State.setFb_st (s : State) (f : Framebuffer) : (s.setFb f).st = s.st := rfl
@[simp] theorem State.setFb_fb (s : State) (f : Framebuffer) : (s.setFb f).fb = f := rfl
@[simp] theorem State.setFb_dirty (s : State) (f : Framebuffer) : (s.setFb f).dirty = s.dirty := rfl
@[simp] theorem State.setFb_keys (s : State) (f : Framebuffer) : (s.setFb f).keys = s.keys := rfl
@[simp] theorem State.setFb_engine (s : State) (f : Framebuffer) : (s.setFb f).engine = s.engine := rfl
@[simp] theorem State.setFb_params (s : State) (f : Framebuffer) : (s.setFb f).params = s.params := rfl
@[simp] theorem State.setFb_rom (s : State) (f : Framebuffer) : (s.setFb f).rom = s.rom := rfl
@[simp] theorem State.setFb_draws (s : State) (f : Framebuffer) : (s.setFb f).draws = s.draws := rfl
@[simp] theorem State.setFb_actions (s : State) (f : Framebuffer) : (s.setFb f).actions = s.actions := rfl
@[simp] theorem State.setFb_reply (s : State) (f : Framebuffer) : (s.setFb f).reply = s.reply := rfl

@[simp] theorem State.setDirty_mem (s : State) (d : Bool) : (s.setDirty d).mem = s.mem := rfl
@[simp] theorem State.setDirty_v (s : State) (d : Bool) : (s.setDirty d).v = s.v := rfl
@[simp] theorem State.setDirty_i (s : State) (d : Bool) : (s.setDirty d).i = s.i := rfl
@[simp] theorem State.setDirty_pc (s : State) (d : Bool) : (s.setDirty d).pc = s.pc := rfl
@[simp] theorem State.setDirty_stack (s : State) (d : Bool) : (s.setDirty d).stack = s.stack := rfl
@[simp] theorem State.setDirty_sp (s : State) (d : Bool) : (s.setDirty d).sp = s.sp := rfl
@[simp] theorem State.setDirty_dt (s : State) (d : Bool) : (s.setDirty d).dt = s.dt := rfl
@[simp] theorem State.setDirty_st (s : State) (d : Bool) : (s.setDirty d).st = s.st := rfl
@[simp] theorem State.setDirty_fb (s : State) (d : Bool) : (s.setDirty d).fb = s.fb := rfl
@[simp] theorem State.setDirty_dirty (s : State) (d : Bool) : (s.setDirty d).dirty = d := rfl
@[simp] theorem State.setDirty_keys (s : State) (d : Bool) : (s.setDirty d).keys = s.keys := rfl
@[simp] theorem State.setDirty_engine (s : State) (d : Bool) : (s.setDirty d).engine = s.engine := rfl
@[simp] theorem State.setDirty_params (s : State) (d : Bool) : (s.setDirty d).params = s.params := rfl
@[simp] theorem State.setDirty_rom (s : State) (d : Bool) : (s.setDirty d).rom = s.rom := rfl
@[simp] theorem State.setDirty_draws (s : State) (d : Bool) : (s.setDirty d).draws = s.draws := rfl
@[simp] theorem State.setDirty_actions (s : State) (d : Bool) : (s.setDirty d).actions = s.actions := rfl
@[simp] theorem State.setDirty_reply (s : State) (d : Bool) : (s.setDirty d).reply = s.reply := rfl

@[simp] theorem State.setKey_mem (s : State) (k : Key) (d : Bool) : (s.setKey k d).mem = s.mem := rfl
@[simp] theorem State.setKey_v (s : State) (k : Key) (d : Bool) : (s.setKey k d).v = s.v := rfl
@[simp] theorem State.setKey_i (s : State) (k : Key) (d : Bool) : (s.setKey k d).i = s.i := rfl
@[simp] theorem State.setKey_pc (s : State) (k : Key) (d : Bool) : (s.setKey k d).pc = s.pc := rfl
@[simp] theorem State.setKey_stack (s : State) (k : Key) (d : Bool) : (s.setKey k d).stack = s.stack := rfl
@[simp] theorem State.setKey_sp (s : State) (k : Key) (d : Bool) : (s.setKey k d).sp = s.sp := rfl
@[simp] theorem State.setKey_dt (s : State) (k : Key) (d : Bool) : (s.setKey k d).dt = s.dt := rfl
@[simp] theorem State.setKey_st (s : State) (k : Key) (d : Bool) : (s.setKey k d).st = s.st := rfl
@[simp] theorem State.setKey_fb (s : State) (k : Key) (d : Bool) : (s.setKey k d).fb = s.fb := rfl
@[simp] theorem State.setKey_dirty (s : State) (k : Key) (d : Bool) : (s.setKey k d).dirty = s.dirty := rfl
@[simp] theorem State.setKey_keys (s : State) (k : Key) (d : Bool) : (s.setKey k d).keys = s.keys.set k d := rfl
@[simp] theorem State.setKey_engine (s : State) (k : Key) (d : Bool) : (s.setKey k d).engine = s.engine := rfl
@[simp] theorem State.setKey_params (s : State) (k : Key) (d : Bool) : (s.setKey k d).params = s.params := rfl
@[simp] theorem State.setKey_rom (s : State) (k : Key) (d : Bool) : (s.setKey k d).rom = s.rom := rfl
@[simp] theorem State.setKey_draws (s : State) (k : Key) (d : Bool) : (s.setKey k d).draws = s.draws := rfl
@[simp] theorem State.setKey_actions (s : State) (k : Key) (d : Bool) : (s.setKey k d).actions = s.actions := rfl
@[simp] theorem State.setKey_reply (s : State) (k : Key) (d : Bool) : (s.setKey k d).reply = s.reply := rfl

@[simp] theorem State.setEngine_mem (s : State) (e : Engine) : (s.setEngine e).mem = s.mem := rfl
@[simp] theorem State.setEngine_v (s : State) (e : Engine) : (s.setEngine e).v = s.v := rfl
@[simp] theorem State.setEngine_i (s : State) (e : Engine) : (s.setEngine e).i = s.i := rfl
@[simp] theorem State.setEngine_pc (s : State) (e : Engine) : (s.setEngine e).pc = s.pc := rfl
@[simp] theorem State.setEngine_stack (s : State) (e : Engine) : (s.setEngine e).stack = s.stack := rfl
@[simp] theorem State.setEngine_sp (s : State) (e : Engine) : (s.setEngine e).sp = s.sp := rfl
@[simp] theorem State.setEngine_dt (s : State) (e : Engine) : (s.setEngine e).dt = s.dt := rfl
@[simp] theorem State.setEngine_st (s : State) (e : Engine) : (s.setEngine e).st = s.st := rfl
@[simp] theorem State.setEngine_fb (s : State) (e : Engine) : (s.setEngine e).fb = s.fb := rfl
@[simp] theorem State.setEngine_dirty (s : State) (e : Engine) : (s.setEngine e).dirty = s.dirty := rfl
@[simp] theorem State.setEngine_keys (s : State) (e : Engine) : (s.setEngine e).keys = s.keys := rfl
@[simp] theorem State.setEngine_engine (s : State) (e : Engine) : (s.setEngine e).engine = e := rfl
@[simp] theorem State.setEngine_params (s : State) (e : Engine) : (s.setEngine e).params = s.params := rfl
@[simp] theorem State.setEngine_rom (s : State) (e : Engine) : (s.setEngine e).rom = s.rom := rfl
@[simp] theorem State.setEngine_draws (s : State) (e : Engine) : (s.setEngine e).draws = s.draws := rfl
@[simp] theorem State.setEngine_actions (s : State) (e : Engine) : (s.setEngine e).actions = s.actions := rfl
@[simp] theorem State.setEngine_reply (s : State) (e : Engine) : (s.setEngine e).reply = s.reply := rfl

@[simp] theorem State.setDraws_mem (s : State) (n : Nat) : (s.setDraws n).mem = s.mem := rfl
@[simp] theorem State.setDraws_v (s : State) (n : Nat) : (s.setDraws n).v = s.v := rfl
@[simp] theorem State.setDraws_i (s : State) (n : Nat) : (s.setDraws n).i = s.i := rfl
@[simp] theorem State.setDraws_pc (s : State) (n : Nat) : (s.setDraws n).pc = s.pc := rfl
@[simp] theorem State.setDraws_stack (s : State) (n : Nat) : (s.setDraws n).stack = s.stack := rfl
@[simp] theorem State.setDraws_sp (s : State) (n : Nat) : (s.setDraws n).sp = s.sp := rfl
@[simp] theorem State.setDraws_dt (s : State) (n : Nat) : (s.setDraws n).dt = s.dt := rfl
@[simp] theorem State.setDraws_st (s : State) (n : Nat) : (s.setDraws n).st = s.st := rfl
@[simp] theorem State.setDraws_fb (s : State) (n : Nat) : (s.setDraws n).fb = s.fb := rfl
@[simp] theorem State.setDraws_dirty (s : State) (n : Nat) : (s.setDraws n).dirty = s.dirty := rfl
@[simp] theorem State.setDraws_keys (s : State) (n : Nat) : (s.setDraws n).keys = s.keys := rfl
@[simp] theorem State.setDraws_engine (s : State) (n : Nat) : (s.setDraws n).engine = s.engine := rfl
@[simp] theorem State.setDraws_params (s : State) (n : Nat) : (s.setDraws n).params = s.params := rfl
@[simp] theorem State.setDraws_rom (s : State) (n : Nat) : (s.setDraws n).rom = s.rom := rfl
@[simp] theorem State.setDraws_draws (s : State) (n : Nat) : (s.setDraws n).draws = n := rfl
@[simp] theorem State.setDraws_actions (s : State) (n : Nat) : (s.setDraws n).actions = s.actions := rfl
@[simp] theorem State.setDraws_reply (s : State) (n : Nat) : (s.setDraws n).reply = s.reply := rfl

@[simp] theorem State.setActions_mem (s : State) (l : List HostAction) : (s.setActions l).mem = s.mem := rfl
@[simp] theorem State.setActions_v (s : State) (l : List HostAction) : (s.setActions l).v = s.v := rfl
@[simp] theorem State.setActions_i (s : State) (l : List HostAction) : (s.setActions l).i = s.i := rfl
@[simp] theorem State.setActions_pc (s : State) (l : List HostAction) : (s.setActions l).pc = s.pc := rfl
@[simp] theorem State.setActions_stack (s : State) (l : List HostAction) : (s.setActions l).stack = s.stack := rfl
@[simp] theorem State.setActions_sp (s : State) (l : List HostAction) : (s.setActions l).sp = s.sp := rfl
@[simp] theorem State.setActions_dt (s : State) (l : List HostAction) : (s.setActions l).dt = s.dt := rfl
@[simp] theorem State.setActions_st (s : State) (l : List HostAction) : (s.setActions l).st = s.st := rfl
@[simp] theorem State.setActions_fb (s : State) (l : List HostAction) : (s.setActions l).fb = s.fb := rfl
@[simp] theorem State.setActions_dirty (s : State) (l : List HostAction) : (s.setActions l).dirty = s.dirty := rfl
@[simp] theorem State.setActions_keys (s : State) (l : List HostAction) : (s.setActions l).keys = s.keys := rfl
@[simp] theorem State.setActions_engine (s : State) (l : List HostAction) : (s.setActions l).engine = s.engine := rfl
@[simp] theorem State.setActions_params (s : State) (l : List HostAction) : (s.setActions l).params = s.params := rfl
@[simp] theorem State.setActions_rom (s : State) (l : List HostAction) : (s.setActions l).rom = s.rom := rfl
@[simp] theorem State.setActions_draws (s : State) (l : List HostAction) : (s.setActions l).draws = s.draws := rfl
@[simp] theorem State.setActions_actions (s : State) (l : List HostAction) : (s.setActions l).actions = l := rfl
@[simp] theorem State.setActions_reply (s : State) (l : List HostAction) : (s.setActions l).reply = s.reply := rfl

@[simp] theorem State.setReply_mem (s : State) (r : Reply) : (s.setReply r).mem = s.mem := rfl
@[simp] theorem State.setReply_v (s : State) (r : Reply) : (s.setReply r).v = s.v := rfl
@[simp] theorem State.setReply_i (s : State) (r : Reply) : (s.setReply r).i = s.i := rfl
@[simp] theorem State.setReply_pc (s : State) (r : Reply) : (s.setReply r).pc = s.pc := rfl
@[simp] theorem State.setReply_stack (s : State) (r : Reply) : (s.setReply r).stack = s.stack := rfl
@[simp] theorem State.setReply_sp (s : State) (r : Reply) : (s.setReply r).sp = s.sp := rfl
@[simp] theorem State.setReply_dt (s : State) (r : Reply) : (s.setReply r).dt = s.dt := rfl
@[simp] theorem State.setReply_st (s : State) (r : Reply) : (s.setReply r).st = s.st := rfl
@[simp] theorem State.setReply_fb (s : State) (r : Reply) : (s.setReply r).fb = s.fb := rfl
@[simp] theorem State.setReply_dirty (s : State) (r : Reply) : (s.setReply r).dirty = s.dirty := rfl
@[simp] theorem State.setReply_keys (s : State) (r : Reply) : (s.setReply r).keys = s.keys := rfl
@[simp] theorem State.setReply_engine (s : State) (r : Reply) : (s.setReply r).engine = s.engine := rfl
@[simp] theorem State.setReply_params (s : State) (r : Reply) : (s.setReply r).params = s.params := rfl
@[simp] theorem State.setReply_rom (s : State) (r : Reply) : (s.setReply r).rom = s.rom := rfl
@[simp] theorem State.setReply_draws (s : State) (r : Reply) : (s.setReply r).draws = s.draws := rfl
@[simp] theorem State.setReply_actions (s : State) (r : Reply) : (s.setReply r).actions = s.actions := rfl
@[simp] theorem State.setReply_reply (s : State) (r : Reply) : (s.setReply r).reply = r := rfl

@[simp] theorem State.advance_mem (s : State) : s.advance.mem = s.mem := rfl
@[simp] theorem State.advance_v (s : State) : s.advance.v = s.v := rfl
@[simp] theorem State.advance_i (s : State) : s.advance.i = s.i := rfl
@[simp] theorem State.advance_pc (s : State) : s.advance.pc = s.pc + 2 := rfl
@[simp] theorem State.advance_stack (s : State) : s.advance.stack = s.stack := rfl
@[simp] theorem State.advance_sp (s : State) : s.advance.sp = s.sp := rfl
@[simp] theorem State.advance_dt (s : State) : s.advance.dt = s.dt := rfl
@[simp] theorem State.advance_st (s : State) : s.advance.st = s.st := rfl
@[simp] theorem State.advance_fb (s : State) : s.advance.fb = s.fb := rfl
@[simp] theorem State.advance_dirty (s : State) : s.advance.dirty = s.dirty := rfl
@[simp] theorem State.advance_keys (s : State) : s.advance.keys = s.keys := rfl
@[simp] theorem State.advance_engine (s : State) : s.advance.engine = s.engine := rfl
@[simp] theorem State.advance_params (s : State) : s.advance.params = s.params := rfl
@[simp] theorem State.advance_rom (s : State) : s.advance.rom = s.rom := rfl
@[simp] theorem State.advance_draws (s : State) : s.advance.draws = s.draws := rfl
@[simp] theorem State.advance_actions (s : State) : s.advance.actions = s.actions := rfl
@[simp] theorem State.advance_reply (s : State) : s.advance.reply = s.reply := rfl

@[simp] theorem State.skip_mem (s : State) : s.skip.mem = s.mem := rfl
@[simp] theorem State.skip_v (s : State) : s.skip.v = s.v := rfl
@[simp] theorem State.skip_i (s : State) : s.skip.i = s.i := rfl
@[simp] theorem State.skip_pc (s : State) : s.skip.pc = s.pc + 4 := rfl
@[simp] theorem State.skip_stack (s : State) : s.skip.stack = s.stack := rfl
@[simp] theorem State.skip_sp (s : State) : s.skip.sp = s.sp := rfl
@[simp] theorem State.skip_dt (s : State) : s.skip.dt = s.dt := rfl
@[simp] theorem State.skip_st (s : State) : s.skip.st = s.st := rfl
@[simp] theorem State.skip_fb (s : State) : s.skip.fb = s.fb := rfl
@[simp] theorem State.skip_dirty (s : State) : s.skip.dirty = s.dirty := rfl
@[simp] theorem State.skip_keys (s : State) : s.skip.keys = s.keys := rfl
@[simp] theorem State.skip_engine (s : State) : s.skip.engine = s.engine := rfl
@[simp] theorem State.skip_params (s : State) : s.skip.params = s.params := rfl
@[simp] theorem State.skip_rom (s : State) : s.skip.rom = s.rom := rfl
@[simp] theorem State.skip_draws (s : State) : s.skip.draws = s.draws := rfl
@[simp] theorem State.skip_actions (s : State) : s.skip.actions = s.actions := rfl
@[simp] theorem State.skip_reply (s : State) : s.skip.reply = s.reply := rfl

@[simp] theorem State.getV_setV (s : State) (x y : Reg) (b : Byte) :
    (s.setV x b).getV y = if x = y then b else s.getV y := by
  simp [State.getV, Vector.getElem_set, Fin.ext_iff]

@[simp] theorem State.getV_setMem (s : State) (m : Memory) (y : Reg) : (s.setMem m).getV y = s.getV y := rfl
@[simp] theorem State.getV_setI (s : State) (a : Word) (y : Reg) : (s.setI a).getV y = s.getV y := rfl
@[simp] theorem State.getV_setPc (s : State) (a : Word) (y : Reg) : (s.setPc a).getV y = s.getV y := rfl
@[simp] theorem State.getV_setStack (s : State) (k : Vector Word 16) (y : Reg) : (s.setStack k).getV y = s.getV y := rfl
@[simp] theorem State.getV_setSp (s : State) (n : Fin 17) (y : Reg) : (s.setSp n).getV y = s.getV y := rfl
@[simp] theorem State.getV_setDt (s : State) (b : Byte) (y : Reg) : (s.setDt b).getV y = s.getV y := rfl
@[simp] theorem State.getV_setSt (s : State) (b : Byte) (y : Reg) : (s.setSt b).getV y = s.getV y := rfl
@[simp] theorem State.getV_setFb (s : State) (f : Framebuffer) (y : Reg) : (s.setFb f).getV y = s.getV y := rfl
@[simp] theorem State.getV_setDirty (s : State) (d : Bool) (y : Reg) : (s.setDirty d).getV y = s.getV y := rfl
@[simp] theorem State.getV_setKey (s : State) (k : Key) (d : Bool) (y : Reg) : (s.setKey k d).getV y = s.getV y := rfl
@[simp] theorem State.getV_setEngine (s : State) (e : Engine) (y : Reg) : (s.setEngine e).getV y = s.getV y := rfl
@[simp] theorem State.getV_setDraws (s : State) (n : Nat) (y : Reg) : (s.setDraws n).getV y = s.getV y := rfl
@[simp] theorem State.getV_setActions (s : State) (l : List HostAction) (y : Reg) : (s.setActions l).getV y = s.getV y := rfl
@[simp] theorem State.getV_setReply (s : State) (r : Reply) (y : Reg) : (s.setReply r).getV y = s.getV y := rfl
@[simp] theorem State.getV_advance (s : State) (y : Reg) : s.advance.getV y = s.getV y := rfl
@[simp] theorem State.getV_skip (s : State) (y : Reg) : s.skip.getV y = s.getV y := rfl
@[simp] theorem State.byteAt_setV (s : State) (x : Reg) (b : Byte) (y : Nat) : (s.setV x b).byteAt y = s.byteAt y := rfl
@[simp] theorem State.byteAt_setVs (s : State) (vs : Vector Byte 16) (y : Nat) : (s.setVs vs).byteAt y = s.byteAt y := rfl
@[simp] theorem State.byteAt_setI (s : State) (a : Word) (y : Nat) : (s.setI a).byteAt y = s.byteAt y := rfl
@[simp] theorem State.byteAt_setPc (s : State) (a : Word) (y : Nat) : (s.setPc a).byteAt y = s.byteAt y := rfl
@[simp] theorem State.byteAt_setStack (s : State) (k : Vector Word 16) (y : Nat) : (s.setStack k).byteAt y = s.byteAt y := rfl
@[simp] theorem State.byteAt_setSp (s : State) (n : Fin 17) (y : Nat) : (s.setSp n).byteAt y = s.byteAt y := rfl
@[simp] theorem State.byteAt_setDt (s : State) (b : Byte) (y : Nat) : (s.setDt b).byteAt y = s.byteAt y := rfl
@[simp] theorem State.byteAt_setSt (s : State) (b : Byte) (y : Nat) : (s.setSt b).byteAt y = s.byteAt y := rfl
@[simp] theorem State.byteAt_setFb (s : State) (f : Framebuffer) (y : Nat) : (s.setFb f).byteAt y = s.byteAt y := rfl
@[simp] theorem State.byteAt_setDirty (s : State) (d : Bool) (y : Nat) : (s.setDirty d).byteAt y = s.byteAt y := rfl
@[simp] theorem State.byteAt_setKey (s : State) (k : Key) (d : Bool) (y : Nat) : (s.setKey k d).byteAt y = s.byteAt y := rfl
@[simp] theorem State.byteAt_setEngine (s : State) (e : Engine) (y : Nat) : (s.setEngine e).byteAt y = s.byteAt y := rfl
@[simp] theorem State.byteAt_setDraws (s : State) (n : Nat) (y : Nat) : (s.setDraws n).byteAt y = s.byteAt y := rfl
@[simp] theorem State.byteAt_setActions (s : State) (l : List HostAction) (y : Nat) : (s.setActions l).byteAt y = s.byteAt y := rfl
@[simp] theorem State.byteAt_setReply (s : State) (r : Reply) (y : Nat) : (s.setReply r).byteAt y = s.byteAt y := rfl
@[simp] theorem State.byteAt_advance (s : State) (y : Nat) : s.advance.byteAt y = s.byteAt y := rfl
@[simp] theorem State.byteAt_skip (s : State) (y : Nat) : s.skip.byteAt y = s.byteAt y := rfl

end Sys2Proof.Machine
end

