-- ==== Sys2Proof/Laws/Memory.lean ====
section
/-! SUPPORT. Memory: a read after a write, the canonical form, and runs of bytes. -/

namespace Sys2Proof.Machine

/-! ### Read after write -/

theorem find_remove (m : Memory) (a c : Nat) :
    Memory.find (Memory.remove m a) c = if c = a then none else Memory.find m c := by
  induction m with
  | nil => simp [Memory.remove, Memory.find]
  | cons p m ih =>
    obtain ⟨k, b⟩ := p
    simp only [Memory.remove, Memory.find]
    split
    · subst k; rw [ih]; split
      · rfl
      · rw [if_neg (by omega)]
    · simp only [Memory.find, ih]; split
      · subst k; rw [if_neg (by assumption)]
      · rfl

theorem find_insert (m : Memory) (a : Nat) (b : Byte) (c : Nat) :
    Memory.find (Memory.insert m a b) c = if c = a then some b else Memory.find m c := by
  induction m with
  | nil => simp [Memory.insert, Memory.find, eq_comm]
  | cons p m ih =>
    obtain ⟨k, d⟩ := p
    simp only [Memory.insert]
    split
    · simp [Memory.find, eq_comm]
    · split
      · subst k; simp only [Memory.find, eq_comm]
        split <;> simp_all
      · simp only [Memory.find, ih]; split
        · subst k; rw [if_neg (by omega)]
        · rfl

/-- A read after a write: the byte written at that address, the old byte everywhere else. -/
@[simp] theorem read_write (font : Config.Font) (m : Memory) (a : Nat) (b : Byte) (c : Nat) :
    Memory.read font (Memory.write font m a b) c = if c = a then b else Memory.read font m c := by
  unfold Memory.write Memory.read
  split
  · rw [find_remove]; split <;> simp_all
  · rw [find_insert]; split <;> simp

/-! ### The canonical form -/

theorem mem_remove {m : Memory} {a : Nat} {p : Host.Cell} (h : p ∈ Memory.remove m a) : p ∈ m := by
  induction m with
  | nil => exact h
  | cons q m ih =>
    obtain ⟨k, b⟩ := q
    simp only [Memory.remove] at h
    split at h
    · exact List.mem_cons_of_mem _ (ih h)
    · rcases List.mem_cons.mp h with rfl | h
      · exact List.mem_cons_self
      · exact List.mem_cons_of_mem _ (ih h)

theorem mem_insert {m : Memory} {a : Nat} {b : Byte} {p : Host.Cell} (h : p ∈ Memory.insert m a b) :
    p = (a, b) ∨ p ∈ m := by
  induction m with
  | nil => simpa [Memory.insert] using h
  | cons q m ih =>
    obtain ⟨k, c⟩ := q
    simp only [Memory.insert] at h
    split at h
    · simpa using h
    · split at h
      · rcases List.mem_cons.mp h with rfl | h
        · exact .inl rfl
        · exact .inr (List.mem_cons_of_mem _ h)
      · rcases List.mem_cons.mp h with rfl | h
        · exact .inr List.mem_cons_self
        · exact (ih h).imp_right (List.mem_cons_of_mem _)

theorem sorted_remove {m : Memory} (a : Nat) (h : m.Pairwise (fun p q => p.1 < q.1)) :
    (Memory.remove m a).Pairwise (fun p q => p.1 < q.1) := by
  induction m with
  | nil => exact h
  | cons p m ih =>
    obtain ⟨hp, hm⟩ := List.pairwise_cons.mp h
    simp only [Memory.remove]
    split
    · exact ih hm
    · exact List.pairwise_cons.mpr ⟨fun q hq => hp q (mem_remove hq), ih hm⟩

theorem sorted_insert {m : Memory} (a : Nat) (b : Byte) (h : m.Pairwise (fun p q => p.1 < q.1)) :
    (Memory.insert m a b).Pairwise (fun p q => p.1 < q.1) := by
  induction m with
  | nil => simp [Memory.insert]
  | cons p m ih =>
    obtain ⟨k, c⟩ := p
    obtain ⟨hp, hm⟩ := List.pairwise_cons.mp h
    simp only [Memory.insert]
    split
    case isTrue hlt =>
      refine List.pairwise_cons.mpr ⟨fun q hq => ?_, h⟩
      rcases List.mem_cons.mp hq with rfl | hq
      · exact hlt
      · exact Nat.lt_trans hlt (hp q hq)
    case isFalse hnlt =>
      split
      case isTrue heq =>
        subst heq
        exact List.pairwise_cons.mpr ⟨hp, hm⟩
      case isFalse hne =>
        refine List.pairwise_cons.mpr ⟨fun q hq => ?_, ih hm⟩
        rcases mem_insert hq with rfl | hq
        · show k < a
          omega
        · exact hp q hq

/-- A write inside the address space keeps the canonical form. -/
theorem wf_write {font : Config.Font} {m : Memory} {a : Nat} (b : Byte) (h : Memory.wf font m) (ha : a < memSize) :
    Memory.wf font (Memory.write font m a b) := by
  unfold Memory.write
  split
  · exact ⟨sorted_remove a h.1, fun p hp => h.2 p (mem_remove hp)⟩
  case isFalse hb =>
    refine ⟨sorted_insert a b h.1, fun p hp => ?_⟩
    rcases mem_insert hp with rfl | hp
    · exact ⟨ha, hb⟩
    · exact h.2 p hp

theorem wf_nil (font : Config.Font) : Memory.wf font [] := ⟨List.Pairwise.nil, by simp⟩

/-! ### Runs of bytes -/

@[simp] theorem length_readBytes (font : Config.Font) (m : Memory) (a n : Nat) :
    (Memory.readBytes font m a n).length = n := by
  induction n generalizing a with
  | zero => rfl
  | succ n ih => simp [Memory.readBytes, ih]

theorem getElem?_readBytes (font : Config.Font) (m : Memory) (a n j : Nat) :
    (Memory.readBytes font m a n)[j]? = if j < n then some (Memory.read font m (a + j)) else none := by
  induction n generalizing a j with
  | zero => simp [Memory.readBytes]
  | succ n ih =>
    cases j with
    | zero => simp [Memory.readBytes]
    | succ j => simp [Memory.readBytes, ih, Nat.add_right_comm, Nat.add_assoc]

/-- A read after a run of bytes is written: the byte of the run inside it, the old byte outside it. -/
theorem read_writeBytes (font : Config.Font) (m : Memory) (a : Nat) (bs : List Byte) (c : Nat) :
    Memory.read font (Memory.writeBytes font m a bs) c =
      if a ≤ c then (bs[c - a]?).getD (Memory.read font m c) else Memory.read font m c := by
  induction bs generalizing m a with
  | nil => simp [Memory.writeBytes]
  | cons b bs ih =>
    rw [Memory.writeBytes, ih, read_write]
    by_cases h : a + 1 ≤ c
    · have : c - a = (c - (a + 1)) + 1 := by omega
      have hne : c ≠ a := by omega
      have hle : a ≤ c := by omega
      rw [if_pos h, if_pos hle, if_neg hne, this, List.getElem?_cons_succ]
    · rw [if_neg h]
      by_cases hc : c = a
      · subst hc; simp
      · have hle : ¬ a ≤ c := by omega
        rw [if_neg hc, if_neg hle]

theorem wf_writeBytes {font : Config.Font} {m : Memory} {a : Nat} (bs : List Byte) (h : Memory.wf font m)
    (ha : a + bs.length ≤ memSize) : Memory.wf font (Memory.writeBytes font m a bs) := by
  induction bs generalizing m a with
  | nil => exact h
  | cons b bs ih =>
    simp only [List.length_cons] at ha
    exact ih (wf_write b h (by omega)) (by omega)

/-! ### The same, of a state -/

@[simp] theorem length_bytesAt (s : State) (a n : Nat) : (s.bytesAt a n).length = n :=
  length_readBytes ..

theorem getElem?_bytesAt (s : State) (a n j : Nat) :
    (s.bytesAt a n)[j]? = if j < n then some (s.byteAt (a + j)) else none :=
  getElem?_readBytes ..

theorem byteAt_storeBytes (s : State) (a : Nat) (bs : List Byte) (c : Nat) :
    (s.storeBytes a bs).byteAt c = if a ≤ c then (bs[c - a]?).getD (s.byteAt c) else s.byteAt c :=
  read_writeBytes ..

/-- Every byte outside the stored run is unchanged. -/
theorem byteAt_storeBytes_outside (s : State) {a c : Nat} {bs : List Byte} (h : c < a ∨ a + bs.length ≤ c) :
    (s.storeBytes a bs).byteAt c = s.byteAt c := by
  rw [byteAt_storeBytes]
  split
  · rw [List.getElem?_eq_none (by omega)]; rfl
  · rfl

/-- Storing bytes changes memory only. -/
theorem storeBytes_eq (s : State) (a : Nat) (bs : List Byte) :
    s.storeBytes a bs = { s with mem := (s.storeBytes a bs).mem } := rfl

end Sys2Proof.Machine
end

