-- ==== Sys2Proof/Laws/Ops.lean ====
section
/-! SUPPORT. What each shared operation can do, once: range checks, fetch, faults, the call stack, reboot. -/

namespace Sys2Proof.Machine

/-! ### Checks and faults -/

/-- A range of n ≥ 1 bytes passes the check exactly when all of it is below 4096. -/
theorem checkRange_ok_iff {a n : Nat} : checkRange a n = .ok () ↔ a + n ≤ 4096 := by
  unfold checkRange memSize
  split
  · simp; omega
  · simp; omega

/-- `checkRange` raises exactly the fault `rangeFault` names. -/
theorem checkRange_eq {a n : Nat} :
    checkRange a n = match rangeFault a n with | none => .ok () | some f => .error f := by
  unfold checkRange rangeFault memSize
  by_cases h : 4096 < a + n
  · rw [if_neg (by omega), if_pos h]
  · rw [if_pos (by omega), if_neg h]

/-- A guarded instruction takes the check's fault from the state before it, or leaves its body. -/
theorem guarded_eq_next {c : Except Fault Unit} {s b t : State} (h : guarded c s b = .next t) :
    (c = .ok () ∧ t = b) ∨ ∃ f, c = .error f ∧ t = s.setEngine (.awaitingReboot f) := by
  unfold guarded at h
  cases c with
  | ok u => exact .inl ⟨rfl, by simpa using h.symm⟩
  | error f => exact .inr ⟨f, rfl, by simpa [takeFault] using h.symm⟩

@[simp] theorem guarded_ok (s b : State) : guarded (.ok ()) s b = .next b := rfl
@[simp] theorem guarded_error (f : Fault) (s b : State) : guarded (.error f) s b = takeFault f s := rfl
theorem takeFault_eq (f : Fault) (s : State) : takeFault f s = .next (s.setEngine (.awaitingReboot f)) := rfl

/-- A guarded instruction takes a fault exactly when its check raises it, where the body leaves the engine running. -/
theorem guarded_faults_iff {c : Except Fault Unit} {o : Option Fault} {s b : State} {f : Fault}
    (hc : c = match o with | none => .ok () | some f => .error f) (hb : b.engine = .running) :
    (guarded c s b = .next { s with engine := .awaitingReboot f } ↔ o = some f) ∧
      (o = none → guarded c s b = .next b) := by
  subst hc
  cases o with
  | none =>
    refine ⟨⟨fun h => ?_, fun h => by cases h⟩, fun _ => rfl⟩
    have := congrArg State.engine (Host.Outcome.next.inj h)
    rw [hb] at this; cases this
  | some g =>
    refine ⟨⟨fun h => ?_, fun h => by cases h; rfl⟩, fun h => by cases h⟩
    have := congrArg State.engine (Host.Outcome.next.inj h)
    simpa using this

/-! ### Fetch -/

/-- Fetch, by where PC lies (R113). -/
theorem fetch_eq (s : State) : fetch s =
    if s.pc.toNat + 1 < 4096 then .ok (composeOpcode (s.byteAt s.pc.toNat) (s.byteAt (s.pc.toNat + 1)))
    else .error (.memoryFault (max s.pc.toNat 4096)) := by
  unfold fetch memRead memSize
  by_cases h : s.pc.toNat + 1 < 4096
  · rw [if_pos h, if_pos (show s.pc.toNat < 4096 by omega)]; simp [h]
  · rw [if_neg h]
    by_cases h' : s.pc.toNat < 4096
    · rw [if_pos h', show max s.pc.toNat 4096 = s.pc.toNat + 1 by omega]; simp [h]
    · rw [if_neg h', show max s.pc.toNat 4096 = s.pc.toNat by omega]; simp [h]

theorem fetch_ok_pc {s : State} {op : Word} (h : fetch s = .ok op) : s.pc.toNat + 1 < 4096 := by
  rw [fetch_eq] at h
  split at h
  · assumption
  · cases h

/-- The bytes of an opcode compose to it. -/
@[simp] theorem composeOpcode_bytes (op : Word) :
    composeOpcode (op.extractLsb' 8 8) (op.extractLsb' 0 8) = op := by
  unfold composeOpcode
  ext k hk
  rw [BitVec.getElem_append]
  split
  · simp [BitVec.getLsbD_eq_getElem (show k < 16 from hk)]
  · simp only [BitVec.getElem_extractLsb']
    rw [show 8 + (k - 8) = k by omega, BitVec.getLsbD_eq_getElem hk]

/-! ### The call stack -/

theorem push_sp {s : State} {a : Word} (h : s.sp.val < 16) : (s.push a).sp.val = s.sp.val + 1 := by
  simp [State.push, h]

theorem push_stack {s : State} {a : Word} (h : s.sp.val < 16) (j : Fin 16) :
    (s.push a).stack[j] = if j.val = s.sp.val then a else s.stack[j] := by
  simp [State.push, h, Vector.getElem_set, eq_comm]

/-- A push changes the stack and SP only. -/
theorem push_frame (s : State) (a : Word) : s.push a = { s with stack := (s.push a).stack, sp := (s.push a).sp } := by
  unfold State.push; split <;> rfl

theorem pop_sp {s : State} (h : 0 < s.sp.val) : s.pop.sp.val = s.sp.val - 1 := by
  simp [State.pop, h]

theorem pop_pc {s : State} (h : 0 < s.sp.val) : s.pop.pc = s.stack[s.sp.val - 1]'(by omega) := by
  simp [State.pop, h]

/-- A pop changes SP and PC only: the popped entry keeps its value (R27). -/
theorem pop_frame (s : State) : s.pop = { s with sp := s.pop.sp, pc := s.pop.pc } := by
  unfold State.pop; split <;> rfl

/-! ### Skips -/

theorem skipIf_eq (s : State) (c : Bool) : s.skipIf c = { s with pc := if c then s.pc + 4 else s.pc + 2 } := by
  cases c <;> rfl

@[simp] theorem skipIf_pc (s : State) (c : Bool) : (s.skipIf c).pc = if c then s.pc + 4 else s.pc + 2 := by
  cases c <;> rfl

/-! ### Reboot -/

theorem length_rebootProgram (p : Config.RebootProgramBytes) (s : State) : (rebootProgram p s).length = s.rom.length := by
  cases p <;> simp [rebootProgram]

/-! ### Loaded memory (R290, R292) -/

theorem initialByte_font (f : Config.Font) (g : Fin 16) (r : Fin 5) :
    initialByte f (5 * g.val + r.val) = f[g][r] := by
  have h1 : (5 * g.val + r.val) / 5 = g.val := by omega
  have h2 : (5 * g.val + r.val) % 5 = r.val := by omega
  unfold initialByte
  rw [dif_pos (by omega)]
  simp only [h1, h2]; rfl

theorem initialByte_zero (f : Config.Font) {a : Nat} (h : 80 ≤ a) : initialByte f a = 0 := by
  unfold initialByte; rw [dif_neg (by omega)]

/-- Bytes loaded at 0x200 over what construction leaves: FONT, the bytes, 0x00 elsewhere. -/
theorem read_loaded (f : Config.Font) (bs : List Byte) :
    (∀ (g : Fin 16) (r : Fin 5),
      Memory.read f (Memory.writeBytes f [] loadAddr bs) (5 * g.val + r.val) = f[g][r]) ∧
    (∀ a, 80 ≤ a → (a < 0x200 ∨ 0x200 + bs.length ≤ a) →
      Memory.read f (Memory.writeBytes f [] loadAddr bs) a = 0) ∧
    ∀ j, j < bs.length → bs[j]? = some (Memory.read f (Memory.writeBytes f [] loadAddr bs) (0x200 + j)) := by
  refine ⟨fun g r => ?_, fun a h1 h2 => ?_, fun j hj => ?_⟩
  · rw [read_writeBytes, if_neg (show ¬ loadAddr ≤ 5 * g.val + r.val by simp only [loadAddr]; omega)]
    exact initialByte_font f g r
  · have e : Memory.read f [] a = 0 := initialByte_zero f h1
    rw [read_writeBytes]
    split
    · rw [List.getElem?_eq_none (by simp only [loadAddr] at *; omega)]; exact e
    · exact e
  · rw [read_writeBytes, if_pos (show loadAddr ≤ 0x200 + j by simp only [loadAddr]; omega)]
    simp [hj]

end Sys2Proof.Machine
end

