-- ==== Sys2Proof/Laws/Operands.lean ====
section
/-! SUPPORT. Operand forms: the held keys and the key a draw takes, register lists, and framebuffer cells. -/

namespace Sys2Proof.Machine

/-! ### Keys (R213, R216) -/

theorem mem_heldKeys {s : State} {k : Key} : k ∈ s.heldKeys ↔ s.keys[k] = true := by
  simp [State.heldKeys]

theorem heldKeys_isEmpty {s : State} : s.heldKeys.isEmpty = true ↔ ∀ k : Key, s.keys[k] = false := by
  rw [List.isEmpty_iff, List.eq_nil_iff_forall_not_mem]
  simp [mem_heldKeys]

/-- With a key held, the draw takes one of the held keys. -/
theorem keyChoice_held {s : State} (h : ∃ k : Key, s.keys[k] = true) :
    ∃ k : Key, s.keyChoice = some k ∧ s.keys[k] = true := by
  obtain ⟨k, hk⟩ := h
  have hpos : 0 < s.heldKeys.length := List.length_pos_of_mem (mem_heldKeys.mpr hk)
  have hlt := Nat.mod_lt (Config.keyChoice s.draws) hpos
  refine ⟨s.heldKeys[Config.keyChoice s.draws % s.heldKeys.length], ?_, ?_⟩
  · exact List.getElem?_eq_getElem hlt
  · exact mem_heldKeys.mp (List.getElem_mem hlt)

/-- With no key held, there is nothing to take. -/
theorem keyChoice_none {s : State} (h : ∀ k : Key, s.keys[k] = false) : s.keyChoice = none := by
  have : s.heldKeys = [] := List.isEmpty_iff.mp (heldKeys_isEmpty.mpr h)
  simp [State.keyChoice, this]

theorem keyHeld_of_lt {s : State} {b : Byte} (h : b.toNat < 16) : s.keyHeld b = s.keys[b.toNat] := by
  simp [State.keyHeld, h]

/-- `checkKey` raises exactly the fault `keyIndexFault` names. -/
theorem checkKey_eq (k : Byte) :
    checkKey k = match keyIndexFault k with | none => .ok () | some f => .error f := by
  unfold checkKey keyIndexFault
  by_cases h : 0xF < k.toNat
  · rw [if_neg (by omega), if_pos h]
  · rw [if_pos (by omega), if_neg h]

/-! ### Register lists (R194, R195) -/

theorem length_regsUpTo (s : State) (x : Reg) : (s.regsUpTo x).length = x.val + 1 := by
  simp [State.regsUpTo]

theorem getElem?_regsUpTo (s : State) (x j : Reg) (h : j ≤ x) : (s.regsUpTo x)[j.val]? = some (s.getV j) := by
  have : j.val < x.val + 1 := by have := Fin.le_def.mp h; omega
  simp [State.regsUpTo, this, State.getV]

/-- Loading a run of bytes from register j: byte k - j to register k inside the run, the old value outside it. -/
theorem getElem_loadRegs (v : Vector Byte 16) (j : Nat) (bs : List Byte) (k : Nat) (hk : k < 16) :
    (loadRegs v j bs)[k] = if j ≤ k then (bs[k - j]?).getD v[k] else v[k] := by
  induction bs generalizing v j with
  | nil => simp [loadRegs]
  | cons b bs ih =>
    rw [loadRegs, ih]
    by_cases h : j + 1 ≤ k
    · have h1 : k - j = (k - (j + 1)) + 1 := by omega
      have h2 : j ≤ k := by omega
      have h3 : ¬ j = k := by omega
      rw [if_pos h, if_pos h2, h1, List.getElem?_cons_succ]
      simp [h3]
    · rw [if_neg h]
      by_cases hc : j = k
      · subst hc; simp
      · have h2 : ¬ j ≤ k := by omega
        simp [hc, h2]

/-! ### Framebuffer cells (R30, R211) -/

/-- Flipping one cell flips that cell and no other. -/
theorem fbGet_fbFlip (fb : Framebuffer) (a b : Fin 2048) :
    fbGet (fbFlip fb a) b = if a = b then !fbGet fb b else fbGet fb b := by
  unfold fbGet fbFlip
  have ha := a.isLt
  have hb := b.isLt
  rw [Vector.getElem_set]
  by_cases hrow : a.val / 64 = b.val / 64
  · rw [if_pos hrow]
    have hlt : b.val % 64 < 64 := Nat.mod_lt _ (by omega)
    simp only [BitVec.getLsbD_xor, BitVec.getLsbD_twoPow, hrow]
    by_cases hab : a = b
    · subst hab; simp [hlt]
    · have : ¬ a.val % 64 = b.val % 64 := fun h => hab (Fin.ext (by omega))
      simp [hab, this]
  · rw [if_neg hrow, if_neg (fun h => hrow (by rw [h]))]

/-- Two cells are equal exactly when their wrapped coordinates are. -/
theorem cellIndex_inj {x y x' y' : Nat} :
    cellIndex x y = cellIndex x' y' ↔ x % 64 = x' % 64 ∧ y % 32 = y' % 32 := by
  simp only [cellIndex, Fin.mk.injEq]
  omega

/-- A cell on the grid has the row-major index of R30. -/
theorem cellIndex_eq (x : Fin 64) (y : Fin 32) : cellIndex x.val y.val = ⟨y.val * 64 + x.val, by omega⟩ := by
  ext; simp only [cellIndex]; omega

/-- Every index is the cell of a column below 64 and a row below 32. -/
theorem cellIndex_div_mod (idx : Fin 2048) : cellIndex (idx.val % 64) (idx.val / 64) = idx := by
  ext; simp only [cellIndex]; have := idx.isLt; omega

/-- Two framebuffers with the same cells are equal. -/
theorem fb_ext {f g : Framebuffer} (h : ∀ idx, fbGet f idx = fbGet g idx) : f = g := by
  apply Vector.ext
  intro r hr
  apply BitVec.eq_of_getLsbD_eq
  intro c hc
  have := h ⟨r * 64 + c, by omega⟩
  simp only [fbGet] at this
  have h1 : (r * 64 + c) / 64 = r := by omega
  have h2 : (r * 64 + c) % 64 = c := by omega
  simpa [h1, h2] using this

/-- Flipping a cell twice restores the framebuffer. -/
theorem fbFlip_fbFlip (fb : Framebuffer) (a : Fin 2048) : fbFlip (fbFlip fb a) a = fb := by
  apply fb_ext
  intro idx
  simp only [fbGet_fbFlip]
  split <;> simp

/-- Flips commute. -/
theorem fbFlip_comm (fb : Framebuffer) (a b : Fin 2048) : fbFlip (fbFlip fb a) b = fbFlip (fbFlip fb b) a := by
  apply fb_ext
  intro idx
  simp only [fbGet_fbFlip]
  split <;> split <;> rfl

/-! ### Sprites (R211, R212) -/

/-- The columns of a sprite row, left to right. -/
abbrev cols : List Nat := [0, 1, 2, 3, 4, 5, 6, 7]

/-- XORing one pixel in flips its cell alone. -/
theorem blitPixel_get (x y : Nat) (p : Blit) (idx) :
    fbGet (blitPixel x y p).1 idx = (fbGet p.1 idx ^^ decide (cellIndex x y = idx)) := by
  unfold blitPixel; simp only [fbGet_fbFlip]; split <;> simp_all

/-- One sprite row: a cell flips exactly when a set pixel of the row lands on it; a set cell is cleared exactly when one
was set there before. -/
theorem blitColumns_get (b : Byte) (x0 y : Nat) (cs : List Nat) (p : Blit) (idx) (hnd : cs.Nodup)
    (h8 : ∀ c ∈ cs, c < 8) :
    fbGet (blitColumns b x0 y cs p).1 idx =
      (fbGet p.1 idx ^^ decide (∃ c ∈ cs, b.getLsbD (7 - c) = true ∧ cellIndex (x0 + c) y = idx)) ∧
    (blitColumns b x0 y cs p).2 =
      (p.2 || decide (∃ c ∈ cs, b.getLsbD (7 - c) = true ∧ fbGet p.1 (cellIndex (x0 + c) y) = true)) := by
  induction cs generalizing p with
  | nil => simp [blitColumns]
  | cons c cs ih =>
    obtain ⟨hc, hnd⟩ := List.nodup_cons.mp hnd
    have h8' : ∀ c ∈ cs, c < 8 := fun c hc => h8 c (List.mem_cons_of_mem _ hc)
    have hc8 := h8 c List.mem_cons_self
    have hne : ∀ d ∈ cs, cellIndex (x0 + c) y ≠ cellIndex (x0 + d) y := by
      intro d hd h
      have := (cellIndex_inj.mp h).1
      have h1 := h8' d hd
      have : c = d := by omega
      exact hc (this ▸ hd)
    obtain ⟨i1, i2⟩ := ih (if b.getLsbD (7 - c) then blitPixel (x0 + c) y p else p) hnd h8'
    rw [blitColumns, i1, i2]
    by_cases hb : b.getLsbD (7 - c) = true
    · simp only [hb, if_true, blitPixel_get]
      constructor
      · by_cases hi : cellIndex (x0 + c) y = idx
        · subst hi
          have : ¬ ∃ d ∈ cs, b.getLsbD (7 - d) = true ∧ cellIndex (x0 + d) y = cellIndex (x0 + c) y := by
            rintro ⟨d, hd, -, h⟩; exact hne d hd h.symm
          simp [this, hb]
        · simp [hi]
      · have : (blitPixel (x0+c) y p).2 = (p.2 || fbGet p.1 (cellIndex (x0 + c) y)) := rfl
        rw [this]
        have h3 : (∃ d ∈ cs, b.getLsbD (7 - d) = true ∧
            (fbGet p.1 (cellIndex (x0 + d) y) ^^ decide (cellIndex (x0 + c) y = cellIndex (x0 + d) y)) = true) ↔
            ∃ d ∈ cs, b.getLsbD (7 - d) = true ∧ fbGet p.1 (cellIndex (x0 + d) y) = true := by
          constructor
          · rintro ⟨d, hd, h, h'⟩; exact ⟨d, hd, h, by simpa [hne d hd] using h'⟩
          · rintro ⟨d, hd, h, h'⟩; exact ⟨d, hd, h, by simpa [hne d hd] using h'⟩
        simp only [h3]
        simp [hb, Bool.or_assoc]
    · simp [hb]

/-- A whole sprite of at most 32 rows: the same, over every row. -/
theorem blitRows_get (x0 y : Nat) (bs : List Byte) (p : Blit) (idx) (hlen : bs.length ≤ 32) :
    fbGet (blitRows x0 y bs p).1 idx =
      (fbGet p.1 idx ^^ decide (∃ r ∈ List.range bs.length, ∃ c ∈ cols,
        ((bs[r]?).getD 0).getLsbD (7 - c) = true ∧ cellIndex (x0 + c) (y + r) = idx)) ∧
    (blitRows x0 y bs p).2 =
      (p.2 || decide (∃ r ∈ List.range bs.length, ∃ c ∈ cols,
        ((bs[r]?).getD 0).getLsbD (7 - c) = true ∧ fbGet p.1 (cellIndex (x0 + c) (y + r)) = true)) := by
  induction bs generalizing p y with
  | nil => simp [blitRows]
  | cons b bs ih =>
    have hl : bs.length < 32 := by simpa using hlen
    obtain ⟨i1, i2⟩ := ih (y + 1) (blitColumns b x0 y cols p) (by omega)
    have hrow : ∀ idx, fbGet (blitColumns b x0 y cols p).1 idx = _ := fun idx =>
      (blitColumns_get b x0 y cols p idx (by decide) (by decide)).1
    have hrow2 := (blitColumns_get b x0 y cols p idx (by decide) (by decide)).2
    have hne : ∀ c d r, r < bs.length → cellIndex (x0 + c) y ≠ cellIndex (x0 + d) (y + 1 + r) := by
      intro c d r hr h
      have := (cellIndex_inj.mp h).2
      omega
    rw [blitRows, i1, i2]
    have key : ∀ (P : Nat → Nat → Prop),
        (∃ r ∈ List.range (b :: bs).length, ∃ c ∈ cols, ((((b :: bs)[r]?).getD 0).getLsbD (7 - c) = true ∧ P r c)) ↔
        ((∃ c ∈ cols, b.getLsbD (7 - c) = true ∧ P 0 c) ∨
          ∃ r ∈ List.range bs.length, ∃ c ∈ cols, (((bs[r]?).getD 0).getLsbD (7 - c) = true ∧ P (r + 1) c)) := by
      intro P
      constructor
      · rintro ⟨r, hr, c, hc, hb, hp⟩
        cases r with
        | zero => exact .inl ⟨c, hc, hb, hp⟩
        | succ r => exact .inr ⟨r, by simpa using hr, c, hc, hb, hp⟩
      · rintro (⟨c, hc, hb, hp⟩ | ⟨r, hr, c, hc, hb, hp⟩)
        · exact ⟨0, by simp, c, hc, hb, hp⟩
        · exact ⟨r + 1, by simpa using hr, c, hc, hb, hp⟩
    constructor
    · rw [hrow]
      simp only [key (fun r c => cellIndex (x0 + c) (y + r) = idx)]
      rw [Bool.decide_or, Bool.xor_assoc]
      simp only [Nat.add_zero]
      congr 1
      by_cases h1 : ∃ c ∈ cols, b.getLsbD (7 - c) = true ∧ cellIndex (x0 + c) y = idx
      · obtain ⟨c, hc, hb, rfl⟩ := h1
        have h2 : ¬ ∃ r ∈ List.range bs.length, ∃ d ∈ cols, ((bs[r]?).getD 0).getLsbD (7 - d) = true ∧
            cellIndex (x0 + d) (y + 1 + r) = cellIndex (x0 + c) y := by
          rintro ⟨r, hr, d, -, -, h⟩; exact hne c d r (by simpa using hr) h.symm
        have h2' : ¬ ∃ r ∈ List.range bs.length, ∃ d ∈ cols, ((bs[r]?).getD 0).getLsbD (7 - d) = true ∧
            cellIndex (x0 + d) (y + (r + 1)) = cellIndex (x0 + c) y := by
          simpa only [Nat.add_assoc, Nat.add_comm 1] using h2
        rw [decide_eq_false h2, decide_eq_false h2', Bool.xor_false, Bool.or_false]
      · rw [decide_eq_false h1, Bool.false_xor, Bool.false_or]
        simp only [Nat.add_assoc, Nat.add_comm 1]
    · rw [hrow2]
      simp only [key (fun r c => fbGet p.1 (cellIndex (x0 + c) (y + r)) = true)]
      rw [Bool.decide_or, Bool.or_assoc]
      simp only [Nat.add_zero]
      congr 2
      rw [decide_eq_decide]
      constructor
      · rintro ⟨r, hr, d, hd, hb, h⟩
        refine ⟨r, hr, d, hd, hb, ?_⟩
        rw [hrow] at h
        have : ¬ ∃ c ∈ cols, b.getLsbD (7 - c) = true ∧
            cellIndex (x0 + c) y = cellIndex (x0 + d) (y + 1 + r) := by
          rintro ⟨c, -, -, h⟩; exact hne c d r (by simpa using hr) h
        rw [decide_eq_false this, Bool.xor_false] at h
        rw [show y + (r + 1) = y + 1 + r by omega]; exact h
      · rintro ⟨r, hr, d, hd, hb, h⟩
        refine ⟨r, hr, d, hd, hb, ?_⟩
        rw [hrow]
        have : ¬ ∃ c ∈ cols, b.getLsbD (7 - c) = true ∧
            cellIndex (x0 + c) y = cellIndex (x0 + d) (y + 1 + r) := by
          rintro ⟨c, -, -, h⟩; exact hne c d r (by simpa using hr) h
        rw [decide_eq_false this, Bool.xor_false]
        rw [show y + 1 + r = y + (r + 1) by omega]; exact h

/-- Some pixel of the sprite lands on a cell exactly when `spritePixel` says so. -/
theorem exists_pixel_iff (bs : List Byte) (hn : bs.length ≤ 15) (x0 y0 : Nat) (cx : Nat) (hx : cx < 64)
    (cy : Nat) (hy : cy < 32) :
    (∃ r ∈ List.range bs.length, ∃ c ∈ cols,
      ((bs[r]?).getD 0).getLsbD (7 - c) = true ∧ cellIndex (x0 + c) (y0 + r) = cellIndex cx cy) ↔
      spritePixel bs x0 y0 cx cy = true := by
  unfold spritePixel
  simp only [Bool.and_eq_true, decide_eq_true_eq]
  constructor
  · rintro ⟨r, hr, c, hc, hb, h⟩
    have hr : r < bs.length := by simpa using hr
    have hc : c < 8 := by have : ∀ c ∈ cols, c < 8 := by decide
                          exact this c hc
    have := cellIndex_inj.mp h
    have e1 : (cx + 64 - x0 % 64) % 64 = c := by omega
    have e2 : (cy + 32 - y0 % 32) % 32 = r := by omega
    rw [e1, e2]; exact ⟨hc, hb⟩
  · rintro ⟨hc, hb⟩
    refine ⟨(cy + 32 - y0 % 32) % 32, ?_, (cx + 64 - x0 % 64) % 64, ?_, hb, ?_⟩
    · by_contra h
      have : bs.length ≤ (cy + 32 - y0 % 32) % 32 := by simpa using h
      rw [List.getElem?_eq_none this] at hb
      simp at hb
    · have : ∀ c, c < 8 → c ∈ cols := by decide
      exact this _ hc
    · rw [cellIndex_inj]; omega

/-! ### Assembled addresses (R82) -/

/-- NNN zero-extended has the same value. -/
theorem addrOf_toNat (nnn : BitVec 12) : (addrOf nnn).toNat = nnn.toNat := by
  unfold addrOf; rw [BitVec.toNat_setWidth_of_le (by omega)]

theorem addrOf_eq_iff (nnn : BitVec 12) (w : Word) : addrOf nnn = w ↔ nnn.toNat = w.toNat := by
  rw [← BitVec.toNat_inj, addrOf_toNat]

end Sys2Proof.Machine
end

