-- ==== Sys2Proof/Laws/Engine.lean ====
section
/-! SUPPORT. What a step and a host action can do, once each, for every claim about a transition. -/

namespace Sys2Proof.Machine

/-! ### Reports -/

theorem report_eq (b : Bool) (t : State) : report b t = { t with reply := .outcome ⟨statusOf t.engine, b, t.dirty⟩ } :=
  rfl

theorem timerUpdate_eq (s : State) : timerUpdate s = { s with dt := countDown s.dt, st := countDown s.st } := rfl

/-- A timer at 0 stays at 0; any other falls by one. -/
theorem countDown_toNat (b : Byte) : (countDown b).toNat = b.toNat - 1 := by
  unfold countDown
  split
  · have := b.isLt
    rw [BitVec.toNat_sub, show (1 : Byte).toNat = 1 from rfl]; omega
  · omega

/-- The end of a step: with the timer update when the instruction completed, without it otherwise. -/
theorem finish_cases (i : Instr) (s t : State) :
    (completed i s t = true ∧ finish i s t = report (beeps t) (timerUpdate t)) ∨
      (completed i s t = false ∧ finish i s t = report false t) := by
  unfold finish
  cases completed i s t <;> simp

/-! ### Steps -/

/-- A step in Running that answers a next state: a fault before execution, or an instruction executed (R112). -/
theorem stepRunning_cases {s t : State} (h : stepRunning s = .next t) :
    (∃ f, fetch s = .error f ∧ t = failStep f s) ∨
      (∃ op e, fetch s = .ok op ∧ decodeWord op = .error e ∧ t = failStep (.unknownOpcode op) s) ∨
        ∃ op i u, fetch s = .ok op ∧ decodeWord op = .ok i ∧ exec i s = .next u ∧ t = finish i s u := by
  unfold stepRunning at h
  split at h
  next f hf => exact .inl ⟨f, hf, by simpa using h.symm⟩
  next op hop =>
    split at h
    next e he => exact .inr (.inl ⟨op, e, hop, he, by simpa using h.symm⟩)
    next i hi =>
      split at h
      next u hu => exact .inr (.inr ⟨op, i, u, hop, hi, hu, by simpa using h.symm⟩)
      · cases h
      · cases h

/-- A `Step` that answers a next state, by the engine state (R112, R121, R122). -/
theorem engineStep_cases {s t : State} (h : engineStep s = .next t) :
    (s.engine = .running ∧ stepRunning s = .next t) ∨
      (s.engine = .haltedOnSelfLoop ∧ t = report (beeps s) (timerUpdate s)) ∨
        ∃ f, s.engine = .awaitingReboot f ∧ t = report false s := by
  unfold engineStep at h
  split at h
  next he => exact .inl ⟨he, h⟩
  next he => exact .inr (.inl ⟨he, by simpa using h.symm⟩)
  next f he => exact .inr (.inr ⟨f, he, by simpa using h.symm⟩)

/-- A transition is the engine's step or one other action of the host, on the state with that action taken (R267). -/
theorem step_cases {s t : State} (h : step s = .next t) :
    ∃ a u, nextAction s = (a, u) ∧
      ((a = .step ∧ engineStep u = .next t) ∨
        (∃ k, a = .keyDown k ∧ t = (u.setKey k true).setReply .nothing) ∨
          (∃ k, a = .keyUp k ∧ t = (u.setKey k false).setReply .nothing) ∨
            (a = .ackRender ∧ t = (u.setDirty false).setReply (.frame u.fb)) ∨
              (a = .reboot ∧ t = reboot Config.rebootProgramBytes u)) := by
  rcases hau : nextAction s with ⟨a, u⟩
  refine ⟨a, u, rfl, ?_⟩
  unfold step hostTurn at h
  rw [hau] at h
  cases a with
  | step => exact .inl ⟨rfl, h⟩
  | keyDown k => exact .inr (.inl ⟨k, rfl, by simpa [hostAct] using h.symm⟩)
  | keyUp k => exact .inr (.inr (.inl ⟨k, rfl, by simpa [hostAct] using h.symm⟩))
  | ackRender => exact .inr (.inr (.inr (.inl ⟨rfl, by simpa [hostAct] using h.symm⟩)))
  | reboot => exact .inr (.inr (.inr (.inr ⟨rfl, by simpa [hostAct] using h.symm⟩)))

/-- Taking the next action changes the pending actions only. -/
theorem nextAction_frame {s u : State} {a : HostAction} (h : nextAction s = (a, u)) :
    u = { s with actions := u.actions } ∧ u.actions = s.actions.tail ∧ (a = .step ∨ a ∈ s.actions) := by
  unfold nextAction at h
  cases hs : s.actions with
  | nil =>
    rw [hs] at h
    obtain ⟨rfl, rfl⟩ := Prod.mk.inj h
    exact ⟨rfl, by simp [hs], .inl rfl⟩
  | cons b l =>
    rw [hs] at h
    obtain ⟨rfl, rfl⟩ := Prod.mk.inj h
    exact ⟨rfl, by simp, .inr (by simp)⟩

/-- The beep of R234, as a test of ST. -/
theorem beeps_eq (s : State) : beeps s = decide (s.st = 1) := by
  unfold beeps
  rw [Bool.eq_iff_iff, beq_iff_eq, decide_eq_true_iff, ← BitVec.toNat_inj]; rfl

/-- What an instruction can do to the engine: leave it, halt it (the jump to itself), or take a fault with no other
effect. -/
theorem exec_cases {i : Instr} {s t : State} (h : exec i s = .next t) :
    t.engine = s.engine ∨ (t = s.setEngine .haltedOnSelfLoop ∧ ∃ nnn, i = .jp nnn ∧ addrOf nnn = s.pc) ∨
      ∃ f, t = s.setEngine (.awaitingReboot f) := by
  have hg : ∀ c (b : State), guarded c s b = .next t → b.engine = s.engine →
      t.engine = s.engine ∨ (t = s.setEngine .haltedOnSelfLoop ∧ ∃ nnn, i = .jp nnn ∧ addrOf nnn = s.pc) ∨
        ∃ f, t = s.setEngine (.awaitingReboot f) := by
    intro c b h hb
    rcases guarded_eq_next h with ⟨-, rfl⟩ | ⟨f, -, rfl⟩
    · exact .inl hb
    · exact .inr (.inr ⟨f, rfl⟩)
  cases i
  case jp nnn =>
    simp only [exec, execJp] at h
    split at h <;> cases h
    · exact .inr (.inl ⟨rfl, nnn, rfl, by assumption⟩)
    · exact .inl rfl
  case ldVxK => simp only [exec, execLdVxK] at h; split at h <;> cases h <;> exact .inl rfl
  case ret => exact hg _ _ h (by rw [pop_frame]; rfl)
  case call => exact hg _ _ h (by rw [push_frame]; rfl)
  case skp => exact hg _ _ h (by rw [skipIf_eq])
  case sknp => exact hg _ _ h (by rw [skipIf_eq])
  all_goals first | exact hg _ _ h rfl | (cases h; exact .inl (by first | rfl | rw [skipIf_eq]))

/-- A transition on the host's `Step` is the engine's step. -/
theorem step_of_stepsFrom {s u : State} (h : stepsFrom s u) : step s = engineStep u := by
  unfold stepsFrom at h
  unfold step hostTurn
  rw [h]; rfl

/-- A run of n + 1 transitions, its first one known. -/
theorem run_succ {n : Nat} {s u : State} (h : step s = .next u) : core.run (n + 1) s = core.run n u := by
  have e : core.step s = .next u := h
  have := Host.Core.run.eq_2 core s n
  rw [e] at this; exact this

end Sys2Proof.Machine
end

