-- ==== Sys2Proof/Laws/Fields.lean ====
section
/-! SUPPORT. The fields of each opcode format (30_encoding.md R81, R83). -/

namespace Sys2Proof

/-! ### The bits of each format -/

theorem formatA_bit (c : BitVec 4) (nnn : BitVec 12) (k : Nat) :
    (formatA c nnn).getLsbD k = if k < 12 then nnn.getLsbD k else c.getLsbD (k - 12) :=
  BitVec.getLsbD_append

theorem formatRI_bit (c : BitVec 4) (x : Reg) (nn : Byte) (k : Nat) :
    (formatRI c x nn).getLsbD k =
      if k < 12 then (if k < 8 then nn.getLsbD k else (regNibble x).getLsbD (k - 8)) else c.getLsbD (k - 12) := by
  have h : (regNibble x ++ nn).getLsbD k = if k < 8 then nn.getLsbD k else (regNibble x).getLsbD (k - 8) :=
    BitVec.getLsbD_append
  rw [← h]; exact BitVec.getLsbD_append

theorem formatRR_bit (c : BitVec 4) (x y : Reg) (n : BitVec 4) (k : Nat) :
    (formatRR c x y n).getLsbD k =
      if k < 12 then
        (if k < 8 then (if k < 4 then n.getLsbD k else (regNibble y).getLsbD (k - 4))
          else (regNibble x).getLsbD (k - 8))
      else c.getLsbD (k - 12) := by
  have h1 : (regNibble y ++ n).getLsbD k = if k < 4 then n.getLsbD k else (regNibble y).getLsbD (k - 4) :=
    BitVec.getLsbD_append
  have h2 : (regNibble x ++ (regNibble y ++ n)).getLsbD k =
      if k < 8 then (regNibble y ++ n).getLsbD k else (regNibble x).getLsbD (k - 8) := BitVec.getLsbD_append
  rw [← h1, ← h2]; exact BitVec.getLsbD_append

/-! ### Format A -/

@[simp] theorem catField_formatA (c : BitVec 4) (nnn : BitVec 12) : catField (formatA c nnn) = c := by
  ext k hk
  simp [catField, BitVec.getElem_extractLsb', formatA_bit, BitVec.getLsbD_eq_getElem hk]

@[simp] theorem nnnField_formatA (c : BitVec 4) (nnn : BitVec 12) : nnnField (formatA c nnn) = nnn := by
  ext k hk
  simp [nnnField, BitVec.getElem_extractLsb', formatA_bit, hk]

/-! ### Formats RI and R -/

@[simp] theorem catField_formatRI (c : BitVec 4) (x : Reg) (nn : Byte) : catField (formatRI c x nn) = c := by
  ext k hk
  simp [catField, BitVec.getElem_extractLsb', formatRI_bit, BitVec.getLsbD_eq_getElem hk]

theorem xBits_formatRI (c : BitVec 4) (x : Reg) (nn : Byte) : (formatRI c x nn).extractLsb' 8 4 = regNibble x := by
  ext k hk
  simp [BitVec.getElem_extractLsb', formatRI_bit, BitVec.getLsbD_eq_getElem hk, show 8 + k < 12 by omega]

@[simp] theorem xField_formatRI (c : BitVec 4) (x : Reg) (nn : Byte) : xField (formatRI c x nn) = x := by
  ext; simp [xField, xBits_formatRI, regNibble]

@[simp] theorem nnField_formatRI (c : BitVec 4) (x : Reg) (nn : Byte) : nnField (formatRI c x nn) = nn := by
  ext k hk
  simp [nnField, BitVec.getElem_extractLsb', formatRI_bit, hk, show k < 12 by omega]

/-! ### Formats RR and RRN -/

@[simp] theorem catField_formatRR (c : BitVec 4) (x y : Reg) (n : BitVec 4) : catField (formatRR c x y n) = c := by
  ext k hk
  simp [catField, BitVec.getElem_extractLsb', formatRR_bit, BitVec.getLsbD_eq_getElem hk]

theorem xBits_formatRR (c : BitVec 4) (x y : Reg) (n : BitVec 4) : (formatRR c x y n).extractLsb' 8 4 = regNibble x := by
  ext k hk
  simp [BitVec.getElem_extractLsb', formatRR_bit, BitVec.getLsbD_eq_getElem hk, show 8 + k < 12 by omega]

theorem yBits_formatRR (c : BitVec 4) (x y : Reg) (n : BitVec 4) : (formatRR c x y n).extractLsb' 4 4 = regNibble y := by
  ext k hk
  simp [BitVec.getElem_extractLsb', formatRR_bit, BitVec.getLsbD_eq_getElem hk, show 4 + k < 12 by omega, show 4 + k < 8 by omega]

@[simp] theorem xField_formatRR (c : BitVec 4) (x y : Reg) (n : BitVec 4) : xField (formatRR c x y n) = x := by
  ext; simp [xField, xBits_formatRR, regNibble]

@[simp] theorem yField_formatRR (c : BitVec 4) (x y : Reg) (n : BitVec 4) : yField (formatRR c x y n) = y := by
  ext; simp [yField, yBits_formatRR, regNibble]

@[simp] theorem nField_formatRR (c : BitVec 4) (x y : Reg) (n : BitVec 4) : nField (formatRR c x y n) = n := by
  ext k hk
  simp [nField, BitVec.getElem_extractLsb', formatRR_bit, hk, show k < 12 by omega, show k < 8 by omega]

/-! ### Errors -/

theorem decodeCat0_error {op : Word} {e : DecodeError} (h : decodeCat0 op = .error e) : e = .unknownOpcode op := by
  unfold decodeCat0 at h
  repeat' split at h
  all_goals first | (cases h; done) | exact (Except.error.inj h).symm

theorem decodeCat8_error {op : Word} {e : DecodeError} (h : decodeCat8 op = .error e) : e = .unknownOpcode op := by
  unfold decodeCat8 at h
  dsimp only at h
  split at h
  all_goals first | (cases h; done) | exact (Except.error.inj h).symm

theorem decodeCatE_error {op : Word} {e : DecodeError} (h : decodeCatE op = .error e) : e = .unknownOpcode op := by
  unfold decodeCatE at h
  repeat' split at h
  all_goals first | (cases h; done) | exact (Except.error.inj h).symm

theorem decodeCatF_error {op : Word} {e : DecodeError} (h : decodeCatF op = .error e) : e = .unknownOpcode op := by
  unfold decodeCatF at h
  dsimp only at h
  split at h
  all_goals first | (cases h; done) | exact (Except.error.inj h).symm

/-- The decoder's only error is `Unknown`, with the raw opcode (R86). -/
theorem decodeWord_error {op : Word} {e : DecodeError} (h : decodeWord op = .error e) : e = .unknownOpcode op := by
  unfold decodeWord at h
  split at h
  all_goals first
    | cases h
    | exact decodeCat0_error h
    | exact decodeCat8_error h
    | exact decodeCatE_error h
    | exact decodeCatF_error h

end Sys2Proof
end

