-- ==== Sys2Proof/Laws/PerInstr.lean ====
section
/-! SUPPORT. Per-instruction lemmas. Family `CanonicalEncoding`: the encoder writes 0 in the bits the decoder ignores
(30_encoding.md R87, R88). -/

namespace Sys2Proof.Laws.CanonicalEncoding

/-- The opcode of the instruction has no ignored bit set. -/
def Statement (i : Instr) : Prop := encode i &&& significantMask i = encode i

/-- All 16 bits are significant: masking changes nothing. -/
theorem and_all (w : Word) : w &&& 0xFFFF = w := BitVec.and_allOnes

/-- The bits of 0xFFF0 from 4 up are set. -/
theorem high_bits : ∀ j : Fin 16, 4 ≤ j.val → (0xFFF0#16)[j.val] = true := by decide

/-- A word of format RR whose low nibble is 0 has its low nibble clear. -/
theorem formatRR_low (c : BitVec 4) (x y : Reg) : formatRR c x y 0 &&& 0xFFF0 = formatRR c x y 0 := by
  have h : ∀ x y : BitVec 4, (c ++ (x ++ (y ++ 0#4)) : BitVec 16) &&& 0xFFF0 = c ++ (x ++ (y ++ 0#4)) := by
    intro x y
    ext k hk
    simp only [BitVec.getElem_and, BitVec.getElem_append]
    rcases Nat.lt_or_ge k 4 with hk4 | hk4
    · simp [hk4, show k < 8 by omega, show k < 12 by omega]
    · have : (0xFFF0#16)[k] = true := by
        exact high_bits ⟨k, hk⟩ hk4
      simp [this]
  exact h _ _

theorem cls : Statement .cls := by unfold Statement; decide
theorem ret : Statement .ret := by unfold Statement; decide
theorem jp (nnn : BitVec 12) : Statement (.jp nnn) := and_all _
theorem call (nnn : BitVec 12) : Statement (.call nnn) := and_all _
theorem seVxNn (x : Reg) (nn : Byte) : Statement (.seVxNn x nn) := and_all _
theorem sneVxNn (x : Reg) (nn : Byte) : Statement (.sneVxNn x nn) := and_all _
theorem seVxVy (x y : Reg) : Statement (.seVxVy x y) := formatRR_low _ x y
theorem ldVxNn (x : Reg) (nn : Byte) : Statement (.ldVxNn x nn) := and_all _
theorem addVxNn (x : Reg) (nn : Byte) : Statement (.addVxNn x nn) := and_all _
theorem ldVxVy (x y : Reg) : Statement (.ldVxVy x y) := and_all _
theorem orVxVy (x y : Reg) : Statement (.orVxVy x y) := and_all _
theorem andVxVy (x y : Reg) : Statement (.andVxVy x y) := and_all _
theorem xorVxVy (x y : Reg) : Statement (.xorVxVy x y) := and_all _
theorem addVxVy (x y : Reg) : Statement (.addVxVy x y) := and_all _
theorem subVxVy (x y : Reg) : Statement (.subVxVy x y) := and_all _
theorem shrVx (x y : Reg) : Statement (.shrVx x y) := and_all _
theorem subnVxVy (x y : Reg) : Statement (.subnVxVy x y) := and_all _
theorem shlVx (x y : Reg) : Statement (.shlVx x y) := and_all _
theorem sneVxVy (x y : Reg) : Statement (.sneVxVy x y) := formatRR_low _ x y
theorem ldINnn (nnn : BitVec 12) : Statement (.ldINnn nnn) := and_all _
theorem jpV0Nnn (nnn : BitVec 12) : Statement (.jpV0Nnn nnn) := and_all _
theorem rndVxNn (x : Reg) (nn : Byte) : Statement (.rndVxNn x nn) := and_all _
theorem drw (x y : Reg) (n : Nat) : Statement (.drw x y n) := and_all _
theorem skp (x : Reg) : Statement (.skp x) := and_all _
theorem sknp (x : Reg) : Statement (.sknp x) := and_all _
theorem ldVxDt (x : Reg) : Statement (.ldVxDt x) := and_all _
theorem ldVxK (x : Reg) : Statement (.ldVxK x) := and_all _
theorem ldDtVx (x : Reg) : Statement (.ldDtVx x) := and_all _
theorem ldStVx (x : Reg) : Statement (.ldStVx x) := and_all _
theorem addIVx (x : Reg) : Statement (.addIVx x) := and_all _
theorem ldFVx (x : Reg) : Statement (.ldFVx x) := and_all _
theorem ldBVx (x : Reg) : Statement (.ldBVx x) := and_all _
theorem ldMemVx (x : Reg) : Statement (.ldMemVx x) := and_all _
theorem ldVxMem (x : Reg) : Statement (.ldVxMem x) := and_all _

end Sys2Proof.Laws.CanonicalEncoding
end

