-- ==== Sys2Proof/Tests/Slice0.lean ====
section
/-! SUPPORT. The model's own tests: expected values come from spec/95_test_vectors.md (the vector is named at each test) or
by hand from the rule named. The `witness_` theorems show that the hypotheses of an obligation can all be met. -/

namespace Sys2Proof.Tests

open Sys2Proof Sys2Proof.Machine

/-- The reset state with these registers. -/
def regs (l : List (Reg × Byte)) : State := l.foldl (fun s p => s.setV p.1 p.2) State.reset

/-- The state a result answers. -/
def nextOf : Result → State
  | .next t => t
  | _ => State.reset

/-- One step that runs the opcode w from s. -/
def run1 (s : State) (w : Nat) : State := nextOf (step (s.withFetchWord 16 w))

/-- A step's outcome without a beep and without a redraw. -/
def quiet (st : Status) : Reply := .outcome ⟨st, false, false⟩

/-- The state after a fault: only the engine and the reply differ from the state before the step. -/
def failedAs (f : Fault) (s : State) : State := (s.setEngine (.awaitingReboot f)).setReply (quiet (.failed f))

/-! ### Well-formedness: the one check of `Instr.wf` (R82) -/

theorem test_wf_height_16_refused : Instr.wf (.drw 0 0 16) = false := by decide
theorem test_wf_height_15 : Instr.wf (.drw 15 15 15) = true := by decide

/-! ### Decoding: words written out from the formats of R83 and the map of R85 -/

theorem test_decode_control :
    decodeWord 0b0000_0000_1110_0000 = .ok .cls ∧ decodeWord 0b0000_0000_1110_1110 = .ok .ret ∧
    decodeWord 0b0001_1010_1011_1100 = .ok (.jp 0xABC) ∧ decodeWord 0b0010_0000_0000_0001 = .ok (.call 1) ∧
    decodeWord 0b0011_1110_1111_0001 = .ok (.seVxNn 14 0xF1) ∧
    decodeWord 0b0100_0001_1000_0000 = .ok (.sneVxNn 1 0x80) ∧
    decodeWord 0b0101_0001_0010_0000 = .ok (.seVxVy 1 2) ∧ decodeWord 0b1001_1111_0000_0000 = .ok (.sneVxVy 15 0) ∧
    decodeWord 0b1011_0011_0000_0000 = .ok (.jpV0Nnn 0x300) := by decide

theorem test_decode_arithmetic :
    decodeWord 0b0110_0111_0000_1001 = .ok (.ldVxNn 7 9) ∧ decodeWord 0b0111_1000_1111_1111 = .ok (.addVxNn 8 0xFF) ∧
    decodeWord 0b1000_0001_0010_0000 = .ok (.ldVxVy 1 2) ∧ decodeWord 0b1000_0001_0010_0001 = .ok (.orVxVy 1 2) ∧
    decodeWord 0b1000_0001_0010_0010 = .ok (.andVxVy 1 2) ∧ decodeWord 0b1000_0001_0010_0011 = .ok (.xorVxVy 1 2) ∧
    decodeWord 0b1000_0001_0010_0100 = .ok (.addVxVy 1 2) ∧ decodeWord 0b1000_0001_0010_0101 = .ok (.subVxVy 1 2) ∧
    decodeWord 0b1000_0001_0010_0110 = .ok (.shrVx 1 2) ∧ decodeWord 0b1000_0001_0010_0111 = .ok (.subnVxVy 1 2) ∧
    decodeWord 0b1000_0001_0010_1110 = .ok (.shlVx 1 2) ∧
    decodeWord 0b1100_0011_0000_1111 = .ok (.rndVxNn 3 0x0F) := by decide

theorem test_decode_index_memory :
    decodeWord 0b1010_0001_0010_0011 = .ok (.ldINnn 0x123) ∧ decodeWord 0b1111_0001_0001_1110 = .ok (.addIVx 1) ∧
    decodeWord 0b1111_0010_0010_1001 = .ok (.ldFVx 2) ∧ decodeWord 0b1111_0011_0011_0011 = .ok (.ldBVx 3) ∧
    decodeWord 0b1111_0100_0101_0101 = .ok (.ldMemVx 4) ∧ decodeWord 0b1111_0101_0110_0101 = .ok (.ldVxMem 5) := by
  decide

theorem test_decode_display_input_timers :
    decodeWord 0b1101_0001_0010_0101 = .ok (.drw 1 2 5) ∧ decodeWord 0b1110_0110_1001_1110 = .ok (.skp 6) ∧
    decodeWord 0b1110_0111_1010_0001 = .ok (.sknp 7) ∧ decodeWord 0b1111_1000_0000_1010 = .ok (.ldVxK 8) ∧
    decodeWord 0b1111_1001_0000_0111 = .ok (.ldVxDt 9) ∧ decodeWord 0b1111_1010_0001_0101 = .ok (.ldDtVx 10) ∧
    decodeWord 0b1111_1011_0001_1000 = .ok (.ldStVx 11) := by decide

/-- Vectors F2, A33 and D16. -/
theorem test_decode_unknown :
    (([0x0000, 0x0123, 0x0FFF, 0x8008, 0xE19F, 0xF0FF, 0xF000, 0xFFFF] ++
      [0x8128, 0x800F, 0x8FFD, 0xE1A2, 0xE09F] : List Word).all
        fun op => decide (decodeWord op = .error (.unknownOpcode op))) = true := by decide

/-- Vectors F3, C13 and C14: ignored bits. -/
theorem test_decode_ignored_bits :
    decodeWord 0x01E0 = .ok .cls ∧ decodeWord 0x0FEE = .ok .ret ∧ decodeWord 0x5127 = .ok (.seVxVy 1 2) ∧
      decodeWord 0x9125 = .ok (.sneVxVy 1 2) := by decide

/-- R55: the most significant byte at the lower address; R80: two bytes an instruction. -/
theorem test_decode_bytes :
    decode [0x60, 0x05, 0xF0] = .ok (.ldVxNn 0 5, [0xF0]) ∧ decode [0x60] = .error .truncated ∧
      encodeBytes (.ldVxNn 0 5) = [0x60, 0x05] := by decide

theorem test_decodeTableWord :
    decodeTableWord 16 0xD125 = some (.drw 1 2 5) ∧ decodeTableWord 16 0xFFFF = none ∧
      decodeTableWord 16 0x1D125 = some (.drw 1 2 5) := by decide

/-- The placed word is fetched, at PC and, where no instruction fits at PC, at 0x200. -/
theorem test_withFetchWord :
    fetch (State.reset.withFetchWord 16 0xD125) = .ok 0xD125 ∧
      fetch ((State.reset.setPc 0xFFF).withFetchWord 16 0x6005) = .ok 0x6005 := by decide

/-! ### Engine, control flow -/

/-- V1, V2: fetch faults. -/
theorem test_fetch_fault :
    nextOf (step (State.reset.setPc 0xFFF)) = failedAs (.memoryFault 0x1000) (State.reset.setPc 0xFFF) ∧
      nextOf (step (State.reset.setPc 0x1000)) = failedAs (.memoryFault 0x1000) (State.reset.setPc 0x1000) := by decide

/-- V6: the empty ROM. -/
theorem test_empty_rom : nextOf (step State.reset) = failedAs (.unknownOpcode 0) State.reset := by decide

/-- E8, P6. -/
theorem test_unknown_opcode : (run1 State.reset 0xFFFF).engine = .awaitingReboot (.unknownOpcode 0xFFFF) ∧
    (run1 State.reset 0xFFFF).pc = 0x200 ∧ (run1 State.reset 0xFFFF).reply = quiet (.failed (.unknownOpcode 0xFFFF)) := by
  decide

/-- V7: an odd jump target. -/
theorem test_jump_odd : (run1 State.reset 0x1201).pc = 0x201 ∧ (run1 State.reset 0x1201).reply = quiet .continues := by
  decide

/-- C7, T8: the self-loop; no timer update. -/
theorem test_self_loop : (run1 (State.reset.setSt 1) 0x1200).engine = .haltedOnSelfLoop ∧
    (run1 (State.reset.setSt 1) 0x1200).st = 1 ∧ (run1 (State.reset.setSt 1) 0x1200).reply = quiet .halted := by decide

/-- V4: a halted step beeps. -/
theorem test_halted_beep : (nextOf (step ((State.reset.setSt 1).setEngine .haltedOnSelfLoop))).reply =
    .outcome ⟨.halted, true, false⟩ := by decide

/-- C1, C8: call pushes its own address; a call to itself is executed. -/
theorem test_call : (run1 (State.reset.setPc 0x204) 0x2210).stack[0] = 0x204 ∧
    (run1 (State.reset.setPc 0x204) 0x2210).sp = 1 ∧ (run1 (State.reset.setPc 0x204) 0x2210).pc = 0x210 ∧
    (run1 State.reset 0x2200).engine = .running ∧ (run1 State.reset 0x2200).pc = 0x200 := by decide

/-- C4, C5: the 16th level succeeds, the 17th faults. -/
theorem test_call_depth : (run1 (State.reset.setSp 15) 0x2300).stack[15] = 0x200 ∧
    (run1 (State.reset.setSp 15) 0x2300).sp = 16 ∧
    (run1 (State.reset.setSp 16) 0x2300).engine = .awaitingReboot (.stackFault .overflow) ∧
    (run1 (State.reset.setSp 16) 0x2300).pc = 0x200 := by decide

/-- C2: the popped entry keeps its value. -/
theorem test_ret : (nextOf (execRet ((State.reset.push 0x204).setPc 0x212))).pc = 0x206 ∧
    (nextOf (execRet ((State.reset.push 0x204).setPc 0x212))).sp = 0 ∧
    (nextOf (execRet ((State.reset.push 0x204).setPc 0x212))).stack[0] = 0x204 := by decide

/-- C3, F4. -/
theorem test_ret_underflow : (run1 (State.reset.setDt 9) 0x00EE).engine = .awaitingReboot (.stackFault .underflow) ∧
    (run1 (State.reset.setDt 9) 0x00EE).dt = 9 ∧ (run1 (State.reset.setDt 9) 0x00EE).pc = 0x200 := by decide

/-- C9, C10: jump+offset is not masked. -/
theorem test_jump_offset : (run1 (regs [(0, 0x10)]) 0xB300).pc = 0x310 ∧ (run1 (regs [(0, 0xFF)]) 0xBFFF).pc = 0x10FE := by
  decide

/-- C11: jump+offset to itself is no halt. -/
theorem test_jump_offset_self : (run1 State.reset 0xB200).pc = 0x200 ∧ (run1 State.reset 0xB200).engine = .running := by
  decide

/-- E11, C12. -/
theorem test_skip_immediate : (run1 (regs [(1, 0x42)]) 0x3142).pc = 0x204 ∧ (run1 (regs [(1, 0x42)]) 0x3143).pc = 0x202 ∧
    (run1 (regs [(1, 0x42)]) 0x4142).pc = 0x202 ∧ (run1 (regs [(1, 0x42)]) 0x4100).pc = 0x204 := by decide

/-- C13, C14, C15. -/
theorem test_skip_registers : (run1 (regs [(1, 7), (2, 7)]) 0x5127).pc = 0x204 ∧
    (run1 (regs [(1, 7), (2, 8)]) 0x9120).pc = 0x204 ∧ (run1 (regs [(1, 7)]) 0x5110).pc = 0x204 ∧
    (run1 (regs [(1, 7)]) 0x9110).pc = 0x202 := by decide

/-- C16: a skip past the end of memory. -/
theorem test_skip_past_memory : (run1 (State.reset.setPc 0xFFE) 0x3000).pc = 0x1002 ∧
    (run1 (State.reset.setPc 0xFFE) 0x3000).reply = quiet .continues := by decide

/-! ### Arithmetic -/

/-- A1 to A3: wrap, and no flag. -/
theorem test_immediates : (run1 State.reset 0x6BCD).getV 11 = 0xCD ∧
    (run1 (regs [(1, 2), (15, 0x55)]) 0x71FF).getV 1 = 1 ∧ (run1 (regs [(1, 2), (15, 0x55)]) 0x71FF).getV 15 = 0x55 ∧
    (run1 (regs [(15, 0xFF)]) 0x7F01).getV 15 = 0 := by decide

/-- A4, A5: VF unchanged. -/
theorem test_move_logic : (run1 (regs [(2, 0x9A)]) 0x8120).getV 1 = 0x9A ∧
    (run1 (regs [(1, 0xF0), (2, 0x3C), (15, 0x77)]) 0x8121).getV 1 = 0xFC ∧
    (run1 (regs [(1, 0xF0), (2, 0x3C), (15, 0x77)]) 0x8122).getV 1 = 0x30 ∧
    (run1 (regs [(1, 0xF0), (2, 0x3C), (15, 0x77)]) 0x8123).getV 1 = 0xCC ∧
    (run1 (regs [(1, 0xF0), (2, 0x3C), (15, 0x77)]) 0x8123).getV 15 = 0x77 := by decide

/-- A8 to A11, PostAddition. -/
theorem test_add_register : (run1 (regs [(1, 0xFF), (2, 1)]) 0x8124).v = (regs [(2, 1)]).v ∧
    (run1 (regs [(1, 0x7F), (2, 1)]) 0x8124).v = (regs [(1, 0x80), (2, 1), (15, 1)]).v ∧
    (run1 (regs [(1, 0xFF), (2, 0xFF)]) 0x8124).v = (regs [(1, 0xFE), (2, 0xFF), (15, 1)]).v := by decide

/-- A13: X and VF as operands. A8, A9 under TrueCarry. -/
theorem test_add_register_flag : (run1 (regs [(1, 0xFF), (15, 1)]) 0x81F4).v = State.reset.v ∧
    addFlag .trueCarry 0xFF 1 = true ∧ addFlag .trueCarry 0x7F 1 = false ∧ addFlag .postAddition 0xFF 1 = false := by
  decide

/-- A14 to A18. -/
theorem test_sub : (run1 (regs [(1, 5), (2, 3)]) 0x8125).v = (regs [(1, 2), (2, 3), (15, 1)]).v ∧
    (run1 (regs [(1, 3), (2, 5)]) 0x8125).v = (regs [(1, 0xFE), (2, 5)]).v ∧
    (run1 (regs [(1, 7), (2, 7)]) 0x8125).getV 15 = 1 ∧ (run1 (regs [(15, 5), (1, 3)]) 0x8F15).getV 15 = 1 := by decide

/-- A23 to A25. -/
theorem test_subn : (run1 (regs [(1, 3), (2, 5)]) 0x8127).v = (regs [(1, 2), (2, 5), (15, 1)]).v ∧
    (run1 (regs [(1, 5), (2, 3)]) 0x8127).v = (regs [(1, 0xFE), (2, 3)]).v ∧
    (run1 (regs [(1, 9), (2, 9)]) 0x8127).getV 15 = 1 := by decide

/-- A19, A20, A22. -/
theorem test_shr : (run1 (regs [(1, 3)]) 0x8106).v = (regs [(1, 1), (15, 1)]).v ∧
    (run1 (regs [(1, 0x80), (2, 1)]) 0x8126).v = (regs [(1, 0x40), (2, 1)]).v ∧
    (run1 (regs [(15, 3)]) 0x8FF6).getV 15 = 1 := by decide

/-- A26, A28, A29. -/
theorem test_shl : (run1 (regs [(1, 0x81)]) 0x810E).v = (regs [(1, 2), (15, 1)]).v ∧
    (run1 (regs [(1, 0x41), (2, 0xFF)]) 0x812E).v = (regs [(1, 0x82), (2, 0xFF)]).v ∧
    (run1 (regs [(15, 0x81)]) 0x8FFE).getV 15 = 1 := by decide

/-- A31: masked by 0, whatever the draw; the next draw is another one. -/
theorem test_random_masked : (nextOf (exec (.rndVxNn 3 0x00) (regs [(3, 9)]))).getV 3 = 0 ∧
    (nextOf (exec (.rndVxNn 3 0x00) (regs [(3, 9)]))).draws = 1 := by
  refine ⟨?_, rfl⟩
  show Config.randomByte 0 &&& 0x00 = 0
  simp

/-! ### Index register and memory -/

/-- M1, M2, M3. -/
theorem test_set_and_add_index : (run1 State.reset 0xA123).i = 0x123 ∧
    (run1 ((regs [(1, 0x10)]).setI 0x100) 0xF11E).i = 0x110 ∧ (run1 ((regs [(1, 1)]).setI 0xFFF) 0xF11E).i = 0x1000 ∧
    (run1 ((regs [(1, 1)]).setI 0xFFF) 0xF11E).getV 15 = 1 := by decide

/-- M4, M5: wrap; the addend is the old VF. -/
theorem test_add_index_flag : (run1 ((regs [(1, 1)]).setI 0xFFFF) 0xF11E).i = 0 ∧
    (run1 ((regs [(1, 1)]).setI 0xFFFF) 0xF11E).getV 15 = 0 ∧
    (run1 ((regs [(15, 0x20)]).setI 0xFF0) 0xFF1E).i = 0x1010 ∧
    (run1 ((regs [(15, 0x20)]).setI 0xFF0) 0xFF1E).getV 15 = 1 := by decide

/-- M6, M7: VX unmasked. -/
theorem test_font_address : (run1 (regs [(1, 0x0A)]) 0xF129).i = 0x32 ∧ (run1 (regs [(1, 0xFF)]) 0xF129).i = 0x4FB := by
  decide

/-- M9, E4. -/
theorem test_bcd : (run1 ((regs [(1, 0xFF)]).setI 0x300) 0xF133).bytesAt 0x300 3 = [2, 5, 5] ∧
    (run1 ((regs [(1, 0xEA)]).setI 0x300) 0xF133).bytesAt 0x300 3 = [2, 3, 4] ∧
    (run1 ((regs [(1, 0xEA)]).setI 0x300) 0xF133).i = 0x300 := by decide

/-- M12, M13: the range check. -/
theorem test_bcd_range :
    (run1 (State.reset.setI 0xFFE) 0xF133).engine = .awaitingReboot (.memoryFault 0x1000) ∧
    (run1 (State.reset.setI 0xFFD) 0xF133).engine = .running := by decide

/-- E5, M16. -/
theorem test_store_registers :
    (run1 ((regs [(0, 1), (1, 2), (2, 3), (3, 4), (4, 5)]).setI 0x300) 0xF355).bytesAt 0x300 5 = [1, 2, 3, 4, 0] ∧
    (run1 ((regs [(0, 1), (1, 2), (2, 3), (3, 4), (4, 5)]).setI 0x300) 0xF355).i = 0x304 ∧
    (run1 (State.reset.setI 0xFF1) 0xFF55).engine = .awaitingReboot (.memoryFault 0x1000) ∧
    (run1 (State.reset.setI 0xFF1) 0xFF55).i = 0xFF1 := by decide

/-- M21: the font area can be written. -/
theorem test_store_font : (run1 State.reset 0xF055).byteAt 0 = 0 ∧ State.reset.byteAt 0 = 0xF0 ∧
    (run1 State.reset 0xF055).byteAt 1 = 0x90 := by decide

/-- M19, M18. -/
theorem test_load_registers :
    (run1 (((regs [(4, 0x99)]).storeBytes 0x300 [1, 2, 3, 4]).setI 0x300) 0xF365).v =
      (regs [(0, 1), (1, 2), (2, 3), (3, 4), (4, 0x99)]).v ∧
    (run1 (((regs [(4, 0x99)]).storeBytes 0x300 [1, 2, 3, 4]).setI 0x300) 0xF365).i = 0x304 ∧
    (run1 (State.reset.setI 0x2000) 0xF065).engine = .awaitingReboot (.memoryFault 0x2000) := by decide

/-! ### Display, keypad, timers -/

/-- The framebuffer with the one cell (0, 0) set. -/
def corner : Framebuffer := (Vector.replicate 32 0).set 0 1

/-- D1. -/
theorem test_cls : (run1 (State.reset.setFb corner) 0x00E0).fb = Vector.replicate 32 0 ∧
    (run1 (State.reset.setFb corner) 0x00E0).dirty = true ∧
    (run1 (State.reset.setFb corner) 0x00E0).reply = .outcome ⟨.continues, false, true⟩ := by decide

/-- D2 (glyph 0: F0 90 90 90 F0, column 0 leftmost) and D4 (both axes): cells given as bits of the row, bit x the column. -/
theorem test_draw : (run1 State.reset 0xD015).fb =
      ((((((Vector.replicate 32 0).set 0 0b1111).set 1 0b1001).set 2 0b1001).set 3 0b1001).set 4 0b1111) ∧
    (run1 State.reset 0xD015).getV 15 = 0 ∧
    (run1 (((regs [(0, 62), (1, 31)]).storeBytes 0x20A [0xFF]).setI 0x20A) 0xD011).fb =
      ((Vector.replicate 32 0).set 31 0xC00000000000003F) := by decide

/-- D8: X = F, collision; D6: the check comes before any change. -/
theorem test_draw_collision :
    (run1 (((State.reset.setFb corner).storeBytes 0x300 [0x80]).setI 0x300) 0xDF11).fb = Vector.replicate 32 0 ∧
    (run1 (((State.reset.setFb corner).storeBytes 0x300 [0x80]).setI 0x300) 0xDF11).getV 15 = 1 ∧
    (run1 (State.reset.setI 0xFFE) 0xD013).engine = .awaitingReboot (.memoryFault 0x1000) ∧
    (run1 (State.reset.setI 0xFFE) 0xD013).dirty = false := by decide

/-- D9, D10. -/
theorem test_key_skips : (run1 ((regs [(1, 5)]).setKey 5 true) 0xE19E).pc = 0x204 ∧
    (run1 ((regs [(1, 5)]).setKey 5 true) 0xE1A1).pc = 0x202 ∧ (run1 (regs [(1, 5)]) 0xE19E).pc = 0x202 ∧
    (run1 (regs [(1, 5)]) 0xE1A1).pc = 0x204 := by decide

/-- D11, D12. -/
theorem test_key_fault : (run1 (regs [(1, 0x10)]) 0xE19E).engine = .awaitingReboot (.keyFault 0x10) ∧
    (run1 (regs [(1, 0xFF)]) 0xE1A1).engine = .awaitingReboot (.keyFault 0xFF) := by decide

/-- D13: blocked. -/
theorem test_wait_key_blocked : nextOf (exec (.ldVxK 1) (State.reset.setDt 5)) = State.reset.setDt 5 ∧
    finish (.ldVxK 1) (State.reset.setDt 5) (State.reset.setDt 5) =
      (State.reset.setDt 5).setReply (quiet .continues) := by
  refine ⟨?_, by decide⟩
  have h : (State.reset.setDt 5).heldKeys = [] := by decide
  simp only [exec, execLdVxK, State.keyChoice, h]; rfl

/-- D14: with one key held, every draw takes it. -/
theorem test_wait_key : (nextOf (exec (.ldVxK 1) (State.reset.setKey 3 true))).getV 1 = 3 ∧
    (nextOf (exec (.ldVxK 1) (State.reset.setKey 3 true))).pc = 0x202 := by
  have h : (State.reset.setKey 3 true).heldKeys = [3] := by decide
  simp only [exec, execLdVxK, State.keyChoice, h, List.length_singleton, Nat.mod_one]
  decide

/-- T1. -/
theorem test_get_delay : (run1 (State.reset.setDt 2) 0xF107).getV 1 = 2 ∧ (run1 (State.reset.setDt 2) 0xF107).dt = 1 := by
  decide

/-- T3, T4. -/
theorem test_set_delay : (run1 (regs [(0, 3)]) 0xF015).dt = 2 ∧ (run1 ((regs [(0, 0)]).setDt 9) 0xF015).dt = 0 := by decide

/-- T5, T6. -/
theorem test_set_sound : (run1 (regs [(0, 1)]) 0xF018).st = 0 ∧
    (run1 (regs [(0, 1)]) 0xF018).reply = .outcome ⟨.continues, true, false⟩ ∧ (run1 (regs [(0, 2)]) 0xF018).st = 1 ∧
    (run1 (regs [(0, 2)]) 0xF018).reply = quiet .continues := by decide

/-! ### Host actions -/

/-- F5: a key event after a fault, then a reboot. -/
theorem test_key_then_reboot :
    (nextOf (step ((State.reset.setEngine (.awaitingReboot (.stackFault .underflow))).setActions [.keyDown 2]))).keys[2] =
      true ∧
    (reboot .reloadImage ((regs [(3, 0x42)]).setEngine (.awaitingReboot (.stackFault .underflow)))) = State.reset := by
  decide

/-- E12: the longest ROM. -/
theorem test_rom_size : (construct Config.defaultParams (List.replicate 3585 0x12)).isNone = true ∧
    (construct Config.defaultParams [0x12, 0x00]).isSome = true := by
  refine ⟨?_, by decide⟩
  unfold construct
  rw [if_neg (by rw [List.length_replicate]; decide)]; rfl

/-! ### Witnesses: the hypotheses of each obligation that has some, met together; one clause a conjunct, at the boundary
values of its range -/

/-- Bytes at PC. -/
def placed (pc : Word) (bs : List Byte) : State := (State.reset.setPc pc).storeBytes pc.toNat bs

/-- Halted with ST = 1. -/
def haltedState : State := (State.reset.setSt 1).setEngine .haltedOnSelfLoop

/-- After a fault. -/
def failedState : State := State.reset.setEngine (.awaitingReboot (.stackFault .underflow))

theorem stepsFrom_of_no_action {s : State} (h : s.actions = []) : stepsFrom s s := by
  unfold stepsFrom nextAction; rw [h]

theorem witness_DecodeOfEncodeIsTheInstruction :
    Instr.wf (.drw 15 0 0) = true ∧ Instr.wf (.drw 0 15 15) = true ∧ Instr.wf (.jp 0xFFF) = true := by decide

theorem witness_UnknownIsExactlyTheIllegalSet :
    decodeWord 0x00E0 ≠ .error (.unknownOpcode 0x00E0) ∧ decodeWord 0x0000 = .error (.unknownOpcode 0x0000) ∧
      decodeWord 0x800F = .error (.unknownOpcode 0x800F) ∧ decodeWord 0xEFA2 = .error (.unknownOpcode 0xEFA2) ∧
        decodeWord 0xFFFF = .error (.unknownOpcode 0xFFFF) := by decide

theorem witness_OnlyIgnoredBitsAreDropped :
    decodeWord 0x5120 = .ok (.seVxVy 1 2) ∧ decodeWord 0x512F = .ok (.seVxVy 1 2) ∧
      decodeWord 0x5130 ≠ .ok (.seVxVy 1 2) := by decide

/-- At the last address an instruction fits, with a pending key event after the Step. -/
theorem witness_StepRunsTheDecodedInstruction :
    let u := (placed 0xFFE [0x60, 0x05]).setActions [.keyDown 3]
    let s := u.setActions [.step, .keyDown 3]
    stepsFrom s u ∧ u.engine = .running ∧ u.pc.toNat + 1 < 4096 ∧
      decode (u.bytesAt u.pc.toNat 2) = .ok (.ldVxNn 0 5, []) ∧
        exec (.ldVxNn 0 5) u = .next ((u.setV 0 5).setPc 0x1000) :=
  ⟨rfl, rfl, by decide, by decide, rfl⟩

theorem witness_FetchReadsTwoBytesOrFaults :
    (State.reset.setPc 0xFFE).pc.toNat + 1 < 4096 ∧ 4096 ≤ (State.reset.setPc 0x1000).pc.toNat ∧
      (State.reset.setPc 0xFFF).pc.toNat = 0xFFF ∧
      stepsFrom (State.reset.setPc 0xFFF) (State.reset.setPc 0xFFF) ∧ State.reset.engine = .running ∧
        fetch (State.reset.setPc 0xFFF) = .error (.memoryFault 0x1000) ∧
      (let s := placed 0xFFE [0x60, 0x05];
        stepsFrom s s ∧ s.engine = .running ∧ fetch s = .ok 0x6005 ∧ decodeWord 0x6005 = .ok (.ldVxNn 0 5) ∧
          exec (.ldVxNn 0 5) s = .next ((s.setV 0 5).setPc 0x1000)) :=
  ⟨by decide, by decide, by decide, rfl, rfl, rfl, rfl, rfl, by decide, by decide, rfl⟩

theorem witness_FetchAndDecodeFaultsFailTheStep :
    (let s := State.reset.setPc 0x10FE;
      stepsFrom s s ∧ s.engine = .running ∧ fetch s = .error (.memoryFault 0x10FE)) ∧
    stepsFrom State.reset State.reset ∧ State.reset.engine = .running ∧ fetch State.reset = .ok 0 ∧
      decodeByMap 0 = none :=
  ⟨⟨rfl, rfl, rfl⟩, rfl, rfl, by decide, by decide⟩

/-- An instruction that is no wait-key (ST = 1 after it), and a wait-key with a key held. -/
theorem witness_CompletedStepUpdatesTheTimers :
    (let s := (placed 0x200 [0xF1, 0x18]).setV 1 1;
      stepsFrom s s ∧ s.engine = .running ∧ fetch s = .ok 0xF118 ∧ decodeWord 0xF118 = .ok (.ldStVx 1) ∧
        exec (.ldStVx 1) s = .next { s with st := 1, pc := 0x202 } ∧ ¬ ∃ x, Instr.ldStVx 1 = .ldVxK x) ∧
    (let s := (placed 0x200 [0xF1, 0x0A]).setKey 15 true;
      stepsFrom s s ∧ fetch s = .ok 0xF10A ∧ decodeWord 0xF10A = .ok (.ldVxK 1) ∧
        (∃ t, exec (.ldVxK 1) s = .next t ∧ t.engine = .running) ∧ ∃ k : Key, s.keys[k] = true) := by
  refine ⟨⟨rfl, rfl, by decide, by decide, rfl, ?_⟩, rfl, by decide, by decide, ?_, 15, by decide⟩
  · rintro ⟨x, h⟩; cases h
  · simp only [exec, execLdVxK]
    split
    · exact ⟨_, rfl, rfl⟩
    · exact ⟨_, rfl, rfl⟩

theorem witness_BlockedStepChangesNothing :
    let s := placed 0x200 [0xF1, 0x0A]
    stepsFrom s s ∧ s.engine = .running ∧ fetch s = .ok 0xF10A ∧ decodeWord 0xF10A = .ok (.ldVxK 1) ∧
      ∀ k : Key, s.keys[k] = false := ⟨rfl, rfl, by decide, by decide, by decide⟩

theorem witness_OnlyTheSelfJumpHalts :
    (let s := placed 0x200 [0x12, 0x00];
      stepsFrom s s ∧ s.engine = .running ∧ fetch s = .ok 0x1200 ∧ decodeWord 0x1200 = .ok (.jp 0x200) ∧
        (0x200 : BitVec 12).toNat = s.pc.toNat) ∧
    exec (.jp 0x200) State.reset = .next (State.reset.setEngine .haltedOnSelfLoop) :=
  ⟨⟨rfl, rfl, by decide, by decide, by decide⟩, rfl⟩

theorem witness_StepsOutsideRunning :
    stepsFrom haltedState haltedState ∧ haltedState.engine = .haltedOnSelfLoop ∧ stepsFrom failedState failedState ∧
      failedState.engine = .awaitingReboot (.stackFault .underflow) := ⟨rfl, rfl, rfl, rfl⟩

/-- A state with a listed cell, the highest PC, and a step from it. -/
theorem witness_EveryTransitionKeepsTheInvariant :
    let s := (State.reset.storeBytes 0xFFF [1]).setPc 0x10FE
    s.Inv ∧ step s = .next (failedAs (.memoryFault 0x10FE) s) := ⟨by decide, rfl⟩

theorem witness_OnlyRebootLeavesHaltOrFault :
    (∃ t, step (failedState.setActions [.keyDown 2]) = .next t) ∧
      (failedState.setActions [.keyDown 2]).engine ≠ .running ∧
      (nextAction (failedState.setActions [.keyDown 2])).1 ≠ .reboot ∧
      (nextAction (haltedState.setActions [.reboot])).1 = .reboot :=
  ⟨⟨_, rfl⟩, by decide, by decide, rfl⟩

theorem witness_FaultedRunIsFrozen :
    let s := failedState.setActions [.keyDown 2, .step, .ackRender]
    s.engine = .awaitingReboot (.stackFault .underflow) ∧ HostAction.reboot ∉ s.actions := by decide

theorem witness_HaltedRunCountsTheTimersDown :
    haltedState.engine = .haltedOnSelfLoop ∧ haltedState.actions = [] ∧ 0 < 1 := by decide

theorem witness_ParametersAndImageNeverChange :
    ∃ t, step (State.reset.setActions [.reboot]) = .next t := ⟨_, rfl⟩

theorem witness_FaultsArePrecise :
    State.reset.engine = .running ∧ exec .ret State.reset = .next failedState ∧
      failedState.engine = .awaitingReboot (.stackFault .underflow) := ⟨rfl, rfl, rfl⟩

/-- Each check on both sides of its boundary. -/
theorem witness_InstructionsFaultExactlyByTheirOwnCheck :
    State.reset.engine = .running ∧
    ownFault (.call 0) (State.reset.setSp 16) = some (.stackFault .overflow) ∧
    ownFault (.call 0) (State.reset.setSp 15) = none ∧
    ownFault .ret (State.reset.setSp 0) = some (.stackFault .underflow) ∧ ownFault .ret (State.reset.setSp 1) = none ∧
    ownFault (.drw 0 0 15) (State.reset.setI 0xFF2) = some (.memoryFault 0x1000) ∧
    ownFault (.drw 0 0 15) (State.reset.setI 0xFF1) = none ∧ ownFault (.drw 0 0 0) (State.reset.setI 0xFFFF) = none ∧
    ownFault (.ldBVx 0) (State.reset.setI 0xFFFF) = some (.memoryFault 0xFFFF) ∧
    ownFault (.ldVxMem 15) (State.reset.setI 0xFF0) = none ∧
    ownFault (.skp 0) (regs [(0, 0x10)]) = some (.keyFault 0x10) ∧ ownFault (.skp 0) (regs [(0, 0xF)]) = none := by decide

theorem witness_InstructionsExecuteWhenTheirCheckPasses :
    State.reset.engine = .running ∧ ownFault (.jp 0x202) State.reset = none ∧
      ∀ nnn, Instr.jp 0x202 = .jp nnn → nnn.toNat ≠ State.reset.pc.toNat :=
  ⟨rfl, rfl, by intro nnn h; cases h; decide⟩

theorem witness_RegistersResetToZero : construct Config.defaultParams [] = some State.reset := rfl

/-- The longest ROM, the shortest rejected one, and each clause's range at its ends. -/
theorem witness_ConstructionLoadsFontAndRom :
    3584 < (List.replicate 3585 (0x00 : Byte)).length ∧ (List.replicate 3584 (0x00 : Byte)).length ≤ 3584 ∧
      ([] : List Byte).length ≤ 3584 ∧ 80 ≤ 80 ∧ 0x1FF < 0x200 ∧ 0 < ([0x12] : List Byte).length ∧
        0x200 + ([0x12] : List Byte).length ≤ 0x201 := by
  refine ⟨?_, ?_, by decide, by decide, by decide, by decide, by decide⟩
  · rw [List.length_replicate]; decide
  · rw [List.length_replicate]

theorem witness_RebootReinitialises :
    nextAction (failedState.setActions [.reboot, .step]) = (.reboot, failedState.setActions [.step]) ∧
      (0 < ({ failedState with rom := [0x12] } : State).rom.length) ∧ 0x200 + failedState.rom.length ≤ 0x200 :=
  ⟨rfl, by decide, by decide⟩

theorem witness_RebootPoliciesAgreeOnUnmodifiedPrograms :
    let s := { (State.reset.storeBytes 0x200 [0x12, 0x34]) with rom := [0x12, 0x34] }
    ∀ j, j < s.rom.length → s.rom[j]? = some (s.byteAt (0x200 + j)) := by
  intro s j hj
  have : j < 2 := hj
  interval_cases j <;> decide

theorem witness_KeyEventsSetOneSlot :
    nextAction (failedState.setActions [.keyDown 15]) = (if true then .keyDown 15 else .keyUp 15, failedState) ∧
      nextAction (haltedState.setActions [.keyUp 0]) = (if false then .keyDown 0 else .keyUp 0, haltedState) :=
  ⟨rfl, rfl⟩

theorem witness_RenderAcknowledgementClearsDirty :
    nextAction (State.reset.setActions [.ackRender]) = (.ackRender, State.reset) ∧ State.reset.dirty = false ∧
      nextAction ((State.reset.setDirty true).setActions [.ackRender]) = (.ackRender, State.reset.setDirty true) :=
  ⟨rfl, rfl, rfl⟩

theorem witness_SkipOnImmediate : (State.reset.setPc 0xFFE).pc = 0xFFE ∧
    (0x3FFF : Word) &&& 0xF000 = 0x3000 ∧ (0x4000 : Word) &&& 0xF000 = 0x4000 := by decide

theorem witness_JumpSetsPcOrHalts :
    (0x202 : BitVec 12).toNat ≠ State.reset.pc.toNat ∧ (0xFFF : BitVec 12).toNat ≠ State.reset.pc.toNat ∧
      (0x200 : BitVec 12).toNat = State.reset.pc.toNat ∧
      (0x1FFF : Word) &&& 0xF000 = 0x1000 := by decide

theorem witness_CallPushesItsOwnAddress :
    (State.reset.setSp 0).sp.val < 16 ∧ (State.reset.setSp 15).sp.val < 16 ∧ (State.reset.setSp 16).sp.val = 16 := by
  decide

theorem witness_ReturnPopsAndAdvances :
    (State.reset.setSp 1).sp.val = (0 : Fin 16).val + 1 ∧ (State.reset.setSp 16).sp.val = (15 : Fin 16).val + 1 ∧
      (State.reset.setSp 0).sp.val = 0 := by decide

/-- The subroutine has changed a register and comes back from 0x300. -/
theorem witness_ReturnUndoesCall :
    let t := (State.reset.push 0x200).setPc 0x300
    State.reset.sp.val < 16 ∧ exec (.call 0x300) State.reset = .next t ∧ (t.setV 0 1).stack = t.stack ∧
      (t.setV 0 1).sp = t.sp := ⟨by decide, rfl, rfl, rfl⟩

theorem witness_ImmediateLoadAndAdd :
    (0x6FFF : Word) &&& 0xF000 = 0x6000 ∧ (0x7000 : Word) &&& 0xF000 = 0x7000 := by decide

theorem witness_RegisterMoveAndLogic :
    (0x8FF0 : Word) &&& 0xF00F = 0x8000 ∧ (0x8121 : Word) &&& 0xF00F = 0x8001 ∧ (0x8122 : Word) &&& 0xF00F = 0x8002 ∧
      (0x8003 : Word) &&& 0xF00F = 0x8003 := by decide

theorem witness_RandomIsTheDrawMasked : (0x7F : Byte)[(7 : Fin 8)] = false := by decide

theorem witness_FlagInstructionsLeaveVfZeroOrOne :
    writesFlag (.drw 0 0 0) = true ∧ State.reset.engine = .running ∧
      ∃ t, exec (.drw 0 0 0) State.reset = .next t ∧ t.engine = .running := ⟨rfl, rfl, _, rfl, rfl⟩

theorem witness_SetIndexLoadsNnn : (0xAFFF : Word) &&& 0xF000 = 0xA000 := by decide

theorem witness_StoreBcdWritesThreeDigits :
    (State.reset.setI 0xFFD).indexAddr + 2 < 4096 ∧ 4096 ≤ (State.reset.setI 0xFFE).indexAddr + 2 ∧
      4096 ≤ (State.reset.setI 0xFFFF).indexAddr + 2 := by decide

theorem witness_StoreRegistersWritesV0ToVx :
    (State.reset.setI 0xFF0).indexAddr + (15 : Reg).val < 4096 ∧ (State.reset.setI 0xFFF).indexAddr + (0 : Reg).val < 4096 ∧
      4096 ≤ (State.reset.setI 0xFF1).indexAddr + (15 : Reg).val ∧ 4096 ≤ (State.reset.setI 0x1000).indexAddr + (0 : Reg).val := by
  decide

theorem witness_LoadRegistersReadsV0ToVx :
    (State.reset.setI 0).indexAddr + (15 : Reg).val < 4096 ∧ (State.reset.setI 0xFF0).indexAddr + (15 : Reg).val < 4096 ∧
      4096 ≤ (State.reset.setI 0xFF1).indexAddr + (15 : Reg).val := by decide

/-- Into cleared registers, as E5 does. -/
theorem witness_StoreThenLoadRegistersRoundTrip :
    let s := (regs [(0, 1), (1, 2)]).setI 0xFFE
    ∃ t, s.indexAddr + (1 : Reg).val < 4096 ∧ exec (.ldMemVx 1) s = .next t ∧
      (let w := (t.setVs State.reset.v).setI 0xFFE;
        w.i = s.i ∧ w.mem = t.mem ∧ w.params = t.params) := ⟨_, by decide, rfl, rfl, rfl, rfl⟩

theorem witness_ClearScreenZeroesEveryCell :
    (0x00E0 : Word) &&& 0xF0FF = 0x00E0 ∧ (0x0FE0 : Word) &&& 0xF0FF = 0x00E0 := by decide

/-- The tallest sprite that fits, no rows with I out of range, and the fault at both ends. -/
theorem witness_DrawSpriteXorsEveryCell :
    (15 ≤ 15 ∧ (State.reset.setI 0xFF1).indexAddr + 15 ≤ 4096) ∧ (0 ≤ 15 ∧ (0 = 0 ∨ (State.reset.setI 0xFFFF).indexAddr + 0 ≤ 4096)) ∧
      (15 ≠ 0 ∧ 4096 < (State.reset.setI 0xFF2).indexAddr + 15) ∧ (1 ≠ 0 ∧ 4096 < (State.reset.setI 0x1000).indexAddr + 1) := by
  decide

theorem witness_DrawingTwiceRestoresTheFramebuffer :
    ∃ t u, 1 ≤ 15 ∧ exec (.drw 0 1 1) State.reset = .next t ∧ State.reset.engine = .running ∧ t.engine = .running ∧
      exec (.drw 0 1 1) (({ t with v := State.reset.v }) : State) = .next u :=
  ⟨_, _, by decide, rfl, rfl, rfl, rfl⟩

theorem witness_KeySkipsTestTheNamedKey :
    ((regs [(0, 0x0F)]).getV 0).toNat = (15 : Key).val ∧ 0xF < ((regs [(0, 0x10)]).getV 0).toNat := by decide

theorem witness_WaitKeyStoresAHeldKey :
    (∃ k : Key, (State.reset.setKey 15 true).keys[k] = true) ∧ ∀ k : Key, State.reset.keys[k] = false := by decide

theorem witness_GetDelayReadsDtBeforeTheUpdate :
    State.reset.engine = .running ∧ (0xFF07 : Word) &&& 0xF0FF = 0xF007 := by decide

theorem witness_TimerLoadsAreDecrementedInTheSameStep : State.reset.engine = .running := rfl

/-- VF of a flag instruction excluded: another register, and VF of an instruction that writes no flag. -/
theorem witness_RegistersChangeOnlyAsDestinationOrFlag :
    (∃ t, exec (.addVxVy 1 2) State.reset = .next t) ∧ namesDest (.addVxVy 1 2) 3 = false ∧ (3 : Reg) ≠ 15 ∧
      (∃ t, exec (.orVxVy 1 2) State.reset = .next t) ∧ namesDest (.orVxVy 1 2) 15 = false ∧
        writesFlag (.orVxVy 1 2) = false := ⟨⟨_, rfl⟩, rfl, by decide, ⟨_, rfl⟩, rfl, rfl⟩

theorem witness_OnlyStoresChangeMemory :
    (∃ t, exec (.ldVxMem 15) State.reset = .next t) ∧ storesToMemory (.ldVxMem 15) = false := ⟨⟨_, rfl⟩, rfl⟩

theorem witness_EachComponentHasOnlyItsListedWriters :
    (∃ t, exec (.addVxVy 0 1) State.reset = .next t) ∧ writesIndex (.addVxVy 0 1) = false ∧
      drawsToScreen (.addVxVy 0 1) = false ∧ (∀ nnn, Instr.addVxVy 0 1 ≠ .call nnn) ∧ Instr.addVxVy 0 1 ≠ .ret ∧
        (∀ x, Instr.addVxVy 0 1 ≠ .ldDtVx x) ∧ ∀ x, Instr.addVxVy 0 1 ≠ .ldStVx x :=
  ⟨⟨_, rfl⟩, rfl, rfl, nofun, nofun, nofun, nofun⟩

theorem witness_NoInstructionWritesHostOwnedState : ∃ t, exec .cls State.reset = .next t := ⟨_, rfl⟩

theorem witness_OnlyRandomAndWaitKeyReadADraw :
    (∀ x nn, Instr.drw 0 1 5 ≠ .rndVxNn x nn) ∧ (∀ x, Instr.drw 0 1 5 ≠ .ldVxK x) ∧
      ∃ t, exec (.drw 0 1 5) State.reset = .next t := ⟨nofun, nofun, _, rfl⟩

end Sys2Proof.Tests
end

section
/-! Construction and reboot (70_reset_and_hazards.md R290, R292), and the reset value of the general registers
(10_state.md R23). -/

namespace Sys2Proof.Machine

/-- Construction accepts exactly the ROMs of at most 3584 bytes, and answers one state for each (R66, R290). -/
theorem construct_eq_some_iff {p : Config.Params} {rom : List Byte} {s : State} :
    construct p rom = some s ↔ rom.length ≤ 3584 ∧
      s = { State.reset with params := p, rom := rom, mem := Memory.writeBytes p.font [] loadAddr rom } := by
  unfold construct
  by_cases h : rom.length ≤ 3584
  · simp [h, eq_comm]
  · simp [h]

theorem construct_v {p : Config.Params} {rom : List Byte} {s : State} (h : construct p rom = some s) :
    s.v = State.reset.v := by
  obtain ⟨-, rfl⟩ := construct_eq_some_iff.mp h
  rfl

@[simp] theorem reboot_v (policy : Config.RebootProgramBytes) (s : State) : (reboot policy s).v = State.reset.v := rfl

/-- A state with the register file of reset reads 0x00 from every register. -/
theorem getV_of_v_eq_reset {s : State} (h : s.v = State.reset.v) (x : Reg) : s.getV x = 0x00 := by
  simp [State.getV, h, State.reset]

/-- Settles O23: construction and reboot both leave the register file of reset, which is zero throughout. -/
theorem registersResetToZero : Obligations.RegistersResetToZero := by
  intro x
  refine ⟨fun p rom s h => ?construction, fun policy s => ?reboot, ?reset⟩
  case construction => exact getV_of_v_eq_reset (construct_v h) x
  case reboot => exact getV_of_v_eq_reset (reboot_v policy s) x
  case reset => exact getV_of_v_eq_reset rfl x

end Sys2Proof.Machine
end

section
/-! A `Step` in Running (40_engine.md R112, R113, R119): what fetch reads, and the step by what fetch, decode and exec
answer. -/

namespace Sys2Proof.Machine

/-! ### Fetch (R113) -/

/-- The first byte is the most significant (R55). -/
theorem composeOpcode_toNat (hi lo : Byte) : (composeOpcode hi lo).toNat = hi.toNat * 256 + lo.toNat := by
  rw [composeOpcode, BitVec.toNat_append, Nat.shiftLeft_eq, Nat.mul_comm, ← Nat.two_pow_add_eq_or_of_lt lo.isLt,
    Nat.mul_comm]

theorem fetch_of_lt {s : State} (h : s.pc.toNat + 1 < 4096) :
    fetch s = .ok (composeOpcode (s.byteAt s.pc.toNat) (s.byteAt (s.pc.toNat + 1))) := by
  rw [fetch_eq, if_pos h]

/-- The lowest address out of range is PC itself, or 0x1000 where only the second byte is out of range. -/
theorem fetch_of_ge {s : State} (h : 4096 ≤ s.pc.toNat + 1) :
    fetch s = .error (.memoryFault (max s.pc.toNat 4096)) := by
  rw [fetch_eq, if_neg (Nat.not_lt.mpr h)]

@[simp] theorem fetch_report (b : Bool) (s : State) : fetch (report b s) = fetch s := rfl

/-! ### The step by its phases (R112) -/

theorem engineStep_of_running {s : State} (h : s.engine = .running) : engineStep s = stepRunning s := by
  rw [engineStep, h]

theorem step_of_fetch_error {s u : State} {f : Fault} (hs : stepsFrom s u) (hr : u.engine = .running)
    (hf : fetch u = .error f) : step s = .next (failStep f u) := by
  rw [step_of_stepsFrom hs, engineStep_of_running hr, stepRunning, hf]

theorem step_of_exec_next {s u t : State} {op : Word} {i : Instr} (hs : stepsFrom s u) (hr : u.engine = .running)
    (hf : fetch u = .ok op) (hd : decodeWord op = .ok i) (he : exec i u = .next t) :
    step s = .next (finish i u t) := by
  rw [step_of_stepsFrom hs, engineStep_of_running hr]
  simp only [stepRunning, hf, hd, he]

/-! ### The blocked wait-key (R119) -/

/-- With no key held there is nothing to store: the instruction leaves the state as it was. -/
theorem exec_ldVxK_of_no_key {s : State} (x : Reg) (h : ∀ k : Key, s.keys[k] = false) :
    exec (.ldVxK x) s = .next s := by
  rw [exec, execLdVxK, keyChoice_none h]

/-- A blocked wait-key has not completed, whatever state it leaves. -/
theorem completed_ldVxK_of_no_key {s : State} (x : Reg) (t : State) (h : ∀ k : Key, s.keys[k] = false) :
    completed (.ldVxK x) s t = false := by
  simp [completed, blocked, heldKeys_isEmpty.mpr h]

/-- So its step ends without the timer update and without a beep. -/
theorem finish_ldVxK_of_no_key {s : State} (x : Reg) (t : State) (h : ∀ k : Key, s.keys[k] = false) :
    finish (.ldVxK x) s t = report false t := by
  simp [finish, completed_ldVxK_of_no_key x t h]

/-! ### The obligations -/

/-- Settles O7: fetch by the three ranges of PC, and the step by what fetch answers. -/
theorem fetchReadsTwoBytesOrFaults : Obligations.FetchReadsTwoBytesOrFaults := by
  refine ⟨fun s => ⟨fun h => ?inRange, fun h => ?outOfRange, fun h => ?lastByte⟩,
    fun s u hs hr => ⟨fun f hf => ?raises, fun op i t hf hd he => ?executes⟩⟩
  case inRange => exact ⟨_, fetch_of_lt h, composeOpcode_toNat _ _⟩
  case outOfRange => rw [fetch_of_ge (by omega), max_eq_left h]
  case lastByte => rw [fetch_of_ge (by omega), h]; rfl
  case raises => exact ⟨failStep f u, step_of_fetch_error hs hr hf, rfl⟩
  case executes => exact step_of_exec_next hs hr hf hd he

/-- Settles O10: the blocked wait-key leaves its own state, so the step only reports, and a report leaves PC and memory. -/
theorem blockedStepChangesNothing : Obligations.BlockedStepChangesNothing := by
  intro s u op x hs hr hf hd hk
  have hstep : step s = .next (report false u) := by
    rw [step_of_exec_next hs hr hf hd (exec_ldVxK_of_no_key x hk), finish_ldVxK_of_no_key x u hk]
  refine ⟨report false u, hstep, ?reportOnly, ?fetchedAgain⟩
  case reportOnly => rw [report_eq, hr]; rfl
  case fetchedAgain => rw [fetch_report, hf]

end Sys2Proof.Machine
end

section
/-! The category of an opcode that matches a row of the opcode map, and its decoding there (30_encoding.md R81, R84,
R85). -/

namespace Sys2Proof

/-- A mask that holds the whole top nibble keeps the category. -/
theorem catField_and {m : Word} (hm : catField m = 0xF) (op : Word) : catField (op &&& m) = catField op := by
  have hand : catField (op &&& m) = catField op &&& catField m := BitVec.extractLsb'_and
  rw [hand, hm]
  exact BitVec.and_allOnes

/-- So an opcode that matches a pattern under such a mask has the pattern's category. -/
theorem catField_of_match {op m w : Word} (hm : catField m = 0xF) (h : op &&& m = w) : catField op = catField w := by
  rw [← h, catField_and hm]

theorem decodeWord_of_cat1 {op : Word} (h : catField op = 1) : decodeWord op = .ok (.jp (nnnField op)) := by
  rw [decodeWord, h]; rfl

theorem decodeWord_of_cat3 {op : Word} (h : catField op = 3) :
    decodeWord op = .ok (.seVxNn (xField op) (nnField op)) := by
  rw [decodeWord, h]; rfl

theorem decodeWord_of_cat4 {op : Word} (h : catField op = 4) :
    decodeWord op = .ok (.sneVxNn (xField op) (nnField op)) := by
  rw [decodeWord, h]; rfl

end Sys2Proof
end

section
/-! Control transfer (41_control_flow.md R141, R143, R144): the two skips on an immediate, the jump and the self-loop
halt. -/

namespace Sys2Proof.Machine

/-- The fetch after PC is set to an address that holds no whole opcode (R113). -/
theorem fetch_setPc_of_ge {a : Word} (s : State) (h : 4096 ≤ a.toNat + 1) :
    fetch (s.setPc a) = .error (.memoryFault (max a.toNat 4096)) :=
  fetch_of_ge h

/-! ### Skips (R143, R144) -/

theorem exec_seVxNn (x : Reg) (nn : Byte) (s : State) :
    exec (.seVxNn x nn) s = .next { s with pc := if s.getV x = nn then s.pc + 4 else s.pc + 2 } := by
  rw [exec, execSeVxNn, skipIf_eq]
  simp only [beq_iff_eq]

theorem exec_sneVxNn (x : Reg) (nn : Byte) (s : State) :
    exec (.sneVxNn x nn) s = .next { s with pc := if s.getV x ≠ nn then s.pc + 4 else s.pc + 2 } := by
  rw [exec, execSneVxNn, skipIf_eq]
  simp only [bne_iff_ne]

/-! ### Jump (R141, R118) -/

theorem exec_jp_of_ne {nnn : BitVec 12} {s : State} (h : nnn.toNat ≠ s.pc.toNat) :
    exec (.jp nnn) s = .next (s.setPc (addrOf nnn)) := by
  rw [exec, execJp, if_neg (mt (addrOf_eq_iff nnn s.pc).mp h)]

theorem exec_jp_of_eq {nnn : BitVec 12} {s : State} (h : nnn.toNat = s.pc.toNat) :
    exec (.jp nnn) s = .next (s.setEngine .haltedOnSelfLoop) := by
  rw [exec, execJp, if_pos ((addrOf_eq_iff nnn s.pc).mpr h)]

/-- An instruction that leaves the engine in another state than Running has not completed: its step ends without the timer
update and without a beep (R112, R120). -/
theorem finish_of_not_running {t : State} (i : Instr) (s : State) (h : t.engine ≠ .running) :
    finish i s t = report false t := by
  have hc : completed i s t = false := by simp [completed, h]
  simp [finish, hc]

/-! ### The obligations -/

/-- Settles O29: each skip by the model's conditional skip, the fetch after a skip from 0xFFE by its PC, 0x1002, and the
decoding by the category. -/
theorem skipOnImmediate : Obligations.SkipOnImmediate := by
  refine ⟨fun x nn s => ⟨exec_seVxNn x nn s, exec_sneVxNn x nn s, fun hpc => ?fetchFaults⟩,
    fun op => ⟨fun h => ?eqDecodes, fun h => ?neDecodes⟩⟩
  case fetchFaults =>
    rw [hpc]
    exact fetch_setPc_of_ge (a := 0xFFE + 4) s (by decide)
  case eqDecodes => exact decodeWord_of_cat3 (catField_of_match rfl h)
  case neDecodes => exact decodeWord_of_cat4 (catField_of_match rfl h)

/-- Settles O31: the two branches of the jump, the end of a step that leaves the engine halted, and the decoding by the
category. -/
theorem jumpSetsPcOrHalts : Obligations.JumpSetsPcOrHalts := by
  refine ⟨fun nnn s => ⟨fun hne => ?jumps, fun heq => ⟨exec_jp_of_eq heq, ?noTimerUpdate⟩⟩, fun op h => ?decodes⟩
  case jumps =>
    refine ⟨s.setPc (addrOf nnn), exec_jp_of_ne hne, addrOf_toNat nnn, rfl, ?lastAddress⟩
    rintro rfl
    exact fetch_setPc_of_ge (a := addrOf 0xFFF) s (by decide)
  case noTimerUpdate => exact finish_of_not_running (.jp nnn) s nofun
  case decodes => exact decodeWord_of_cat1 (catField_of_match rfl h)

end Sys2Proof.Machine
end

section
/-! The low nibble of an opcode that matches a row of category 8 of the opcode map, and the decoding of the rows of
categories 6, 7 and 8 (30_encoding.md R81, R84, R85). -/

namespace Sys2Proof

/-- A mask that holds the whole low nibble keeps N, so an opcode that matches a pattern under it has the pattern's N. -/
theorem nField_of_match {op m w : Word} (hm : nField m = 0xF) (h : op &&& m = w) : nField op = nField w := by
  have hand : nField (op &&& m) = nField op &&& nField m := BitVec.extractLsb'_and
  rw [← h, hand, hm]
  exact BitVec.and_allOnes.symm

theorem decodeWord_of_cat6 {op : Word} (h : catField op = 6) :
    decodeWord op = .ok (.ldVxNn (xField op) (nnField op)) := by
  rw [decodeWord, h]; rfl

theorem decodeWord_of_cat7 {op : Word} (h : catField op = 7) :
    decodeWord op = .ok (.addVxNn (xField op) (nnField op)) := by
  rw [decodeWord, h]; rfl

theorem decodeWord_of_cat8 {op : Word} (h : catField op = 8) : decodeWord op = decodeCat8 op := by
  rw [decodeWord, h]; rfl

theorem decodeCat8_of_n0 {op : Word} (h : nField op = 0) : decodeCat8 op = .ok (.ldVxVy (xField op) (yField op)) := by
  rw [decodeCat8, h]; rfl

theorem decodeCat8_of_n1 {op : Word} (h : nField op = 1) : decodeCat8 op = .ok (.orVxVy (xField op) (yField op)) := by
  rw [decodeCat8, h]; rfl

theorem decodeCat8_of_n2 {op : Word} (h : nField op = 2) : decodeCat8 op = .ok (.andVxVy (xField op) (yField op)) := by
  rw [decodeCat8, h]; rfl

theorem decodeCat8_of_n3 {op : Word} (h : nField op = 3) : decodeCat8 op = .ok (.xorVxVy (xField op) (yField op)) := by
  rw [decodeCat8, h]; rfl

end Sys2Proof
end

section
/-! Register loads and bitwise logic (42_arithmetic.md R161–R166): the instructions that write one register and advance
PC, and set no flag. -/

namespace Sys2Proof.Machine

/-! ### One register written, then the default advance -/

theorem getV_setV_advance (s : State) (x : Reg) (b : Byte) (z : Reg) :
    (s.setV x b).advance.getV z = if z = x then b else s.getV z := by
  simp only [State.getV_advance, State.getV_setV, eq_comm]

theorem setV_advance_frame (s : State) (x : Reg) (b : Byte) :
    (s.setV x b).advance = { s with v := (s.setV x b).advance.v, pc := s.pc + 2 } := rfl

/-- An instruction that writes one byte to VX and advances, the byte given bit by bit. -/
theorem exec_writes_bits {i : Instr} {s : State} {x : Reg} {b : Byte} {bit : Fin 8 → Bool}
    (hexec : exec i s = .next (s.setV x b).advance) (hbits : ∀ k : Fin 8, b[k] = bit k) :
    ∃ t, exec i s = .next t ∧ (∀ z, z ≠ x → t.getV z = s.getV z) ∧ (∀ k : Fin 8, (t.getV x)[k] = bit k) ∧
      t = { s with v := t.v, pc := s.pc + 2 } := by
  refine ⟨_, hexec, fun z hz => ?others, fun k => ?written, setV_advance_frame s x b⟩
  case others => rw [getV_setV_advance, if_neg hz]
  case written => rw [getV_setV_advance, if_pos rfl, hbits k]

/-! ### The obligations -/

/-- Settles O36: both instructions write one register and advance, and a sum of bytes wraps modulo 256; the decoding by
the category. -/
theorem immediateLoadAndAdd : Obligations.ImmediateLoadAndAdd := by
  refine ⟨fun x nn s => ⟨⟨_, rfl, getV_setV_advance s x nn, setV_advance_frame s x nn⟩,
      ⟨_, rfl, fun z => ?sum, setV_advance_frame s x (s.getV x + nn)⟩⟩,
    fun op => ⟨fun h => ?loadDecodes, fun h => ?addDecodes⟩⟩
  case sum => rw [getV_setV_advance, apply_ite BitVec.toNat, BitVec.toNat_add]
  case loadDecodes => exact decodeWord_of_cat6 (catField_of_match rfl h)
  case addDecodes => exact decodeWord_of_cat7 (catField_of_match rfl h)

/-- Settles O37: each instruction writes one register and advances, the three logical ones by the bits of the two
operands; the decoding by the category, then by N. -/
theorem registerMoveAndLogic : Obligations.RegisterMoveAndLogic := by
  refine ⟨fun x y s => ⟨?move, exec_writes_bits rfl fun k => BitVec.getElem_or k.isLt,
      exec_writes_bits rfl fun k => BitVec.getElem_and k.isLt, exec_writes_bits rfl fun k => BitVec.getElem_xor k.isLt⟩,
    fun op => ⟨fun h => ?moveDecodes, fun h => ?orDecodes, fun h => ?andDecodes, fun h => ?xorDecodes⟩⟩
  case move => exact ⟨_, rfl, getV_setV_advance s x (s.getV y), setV_advance_frame s x (s.getV y)⟩
  case moveDecodes => rw [decodeWord_of_cat8 (catField_of_match rfl h), decodeCat8_of_n0 (nField_of_match rfl h)]
  case orDecodes => rw [decodeWord_of_cat8 (catField_of_match rfl h), decodeCat8_of_n1 (nField_of_match rfl h)]
  case andDecodes => rw [decodeWord_of_cat8 (catField_of_match rfl h), decodeCat8_of_n2 (nField_of_match rfl h)]
  case xorDecodes => rw [decodeWord_of_cat8 (catField_of_match rfl h), decodeCat8_of_n3 (nField_of_match rfl h)]

end Sys2Proof.Machine
end

section
/-! The decoding of category A of the opcode map (30_encoding.md R84, R85). -/

namespace Sys2Proof

theorem decodeWord_of_catA {op : Word} (h : catField op = 0xA) : decodeWord op = .ok (.ldINnn (nnnField op)) := by
  rw [decodeWord, h]; rfl

end Sys2Proof
end

section
/-! The index register (43_index_memory.md R190): the instruction that loads an address into I. -/

namespace Sys2Proof.Machine

/-- An address operand has 12 bits, so as a word it lies in memory. -/
theorem addrOf_toNat_le (nnn : BitVec 12) : (addrOf nnn).toNat ≤ 0x0FFF := by
  rw [addrOf_toNat]
  exact Nat.le_of_lt_succ nnn.isLt

/-! ### I written, then the default advance -/

theorem exec_ldINnn (nnn : BitVec 12) (s : State) : exec (.ldINnn nnn) s = .next (s.setI (addrOf nnn)).advance := by
  rw [exec, execLdINnn]

theorem setI_advance_frame (s : State) (a : Word) :
    (s.setI a).advance = { s with i := (s.setI a).advance.i, pc := s.pc + 2 } := rfl

/-! ### The obligation -/

/-- Settles O43: the instruction writes its operand to I and advances, and an operand has 12 bits; the decoding by the
category. -/
theorem setIndexLoadsNnn : Obligations.SetIndexLoadsNnn := by
  refine ⟨fun nnn s => ⟨_, exec_ldINnn nnn s, ?loaded, ?bounded, setI_advance_frame s (addrOf nnn)⟩,
    fun op h => ?decodes⟩
  case loaded => rw [State.advance_i, State.setI_i, addrOf_toNat]
  case bounded => rw [State.advance_i, State.setI_i]; exact addrOf_toNat_le nnn
  case decodes => exact decodeWord_of_catA (catField_of_match rfl h)

end Sys2Proof.Machine
end

section
/-! The low byte of an opcode that matches a row of the opcode map with a full low byte in its mask, and the decoding of
clear-screen's row in category 0 (30_encoding.md R81, R84, R85). -/

namespace Sys2Proof

/-- A mask that holds the whole low byte keeps NN, so an opcode that matches a pattern under it has the pattern's NN. -/
theorem nnField_of_match {op m w : Word} (hm : nnField m = 0xFF) (h : op &&& m = w) : nnField op = nnField w := by
  have hand : nnField (op &&& m) = nnField op &&& nnField m := BitVec.extractLsb'_and
  rw [← h, hand, hm]
  exact BitVec.and_allOnes.symm

theorem decodeWord_of_cat0 {op : Word} (h : catField op = 0) : decodeWord op = decodeCat0 op := by
  rw [decodeWord, h]; rfl

theorem decodeCat0_of_nnE0 {op : Word} (h : nnField op = 0xE0) : decodeCat0 op = .ok .cls := by
  rw [decodeCat0, if_pos h]

end Sys2Proof
end

section
/-! Clear-screen (44_display_input.md R210): the whole framebuffer overwritten with zero rows. -/

namespace Sys2Proof.Machine

/-- Every cell of a framebuffer of zero rows is 0. -/
theorem fbGet_replicate_zero (idx : Fin 2048) : fbGet (Vector.replicate 32 0) idx = false := by
  rw [fbGet, Vector.getElem_replicate]
  exact BitVec.getLsbD_zero

theorem exec_cls (s : State) :
    exec .cls s = .next { s with fb := Vector.replicate 32 0, dirty := true, pc := s.pc + 2 } := by
  rw [exec, execCls]; rfl

/-! ### The obligation -/

/-- Settles O49: the framebuffer that clear-screen leaves has only zero rows, so every cell of it reads 0; the decoding
by the category, then by NN. -/
theorem clearScreenZeroesEveryCell : Obligations.ClearScreenZeroesEveryCell := by
  refine ⟨fun s => ⟨_, exec_cls s, fbGet_replicate_zero, rfl⟩, fun op h => ?decodes⟩
  case decodes => rw [decodeWord_of_cat0 (catField_of_match rfl h), decodeCat0_of_nnE0 (nnField_of_match rfl h)]

end Sys2Proof.Machine
end

section
/-! The decoding of get-delay's row in category F of the opcode map (30_encoding.md R81, R84, R85). -/

namespace Sys2Proof

theorem decodeWord_of_catF {op : Word} (h : catField op = 0xF) : decodeWord op = decodeCatF op := by
  rw [decodeWord, h]; rfl

theorem decodeCatF_of_nn07 {op : Word} (h : nnField op = 0x07) : decodeCatF op = .ok (.ldVxDt (xField op)) := by
  rw [decodeCatF, h]; rfl

end Sys2Proof
end

section
/-! The timers (45_timers.md R230, R233): get-delay reads DT, and the end of its step decrements it. -/

namespace Sys2Proof.Machine

/-- An instruction that is not blocked and leaves the engine in Running has completed: its step ends with the timer update,
and with the beep that update requests (R112, R120). -/
theorem finish_of_running {i : Instr} {s t : State} (hr : t.engine = .running) (hb : blocked i s = false) :
    finish i s t = report (beeps t) (timerUpdate t) := by
  have hc : completed i s t = true := by simp [completed, hr, hb]
  rw [finish, if_pos hc]

/-- The timer update at the end of a step lowers DT by one, and leaves it at 0 (R233). -/
theorem report_timerUpdate_dt_toNat (b : Bool) (t : State) : (report b (timerUpdate t)).dt.toNat = t.dt.toNat - 1 := by
  rw [report_eq, timerUpdate_eq]
  exact countDown_toNat t.dt

theorem exec_ldVxDt (x : Reg) (s : State) : exec (.ldVxDt x) s = .next (s.setV x s.dt).advance := by
  rw [exec, execLdVxDt]

/-! ### The obligation -/

/-- Settles O54: the instruction writes DT to one register and advances, which leaves DT for the timer update of a step
that completes; the decoding by the category, then by NN. -/
theorem getDelayReadsDtBeforeTheUpdate : Obligations.GetDelayReadsDtBeforeTheUpdate := by
  refine ⟨fun x s => ⟨_, exec_ldVxDt x s, getV_setV_advance s x s.dt, setV_advance_frame s x s.dt,
    fun hr => ?decremented⟩, fun op h => ?decodes⟩
  case decremented =>
    have hrun : (s.setV x s.dt).advance.engine = .running := by rw [State.advance_engine, State.setV_engine, hr]
    rw [finish_of_running hrun rfl, report_timerUpdate_dt_toNat, State.advance_dt, State.setV_dt]
  case decodes => rw [decodeWord_of_catF (catField_of_match rfl h), decodeCatF_of_nn07 (nnField_of_match rfl h)]

end Sys2Proof.Machine
end

section
/-! The framebuffer as the host reads it, and the acknowledgement of a render (10_state.md R30, 60_exceptions.md R265). -/

namespace Sys2Proof.Machine

/-- The cell at a row-major index is one bit of one row (R30). -/
theorem fbGet_rowMajor (fb : Framebuffer) (x : Fin 64) (y : Fin 32) :
    fbGet fb ⟨y.val * 64 + x.val, by omega⟩ = fb[y][x] := by
  have hrow : (y.val * 64 + x.val) / 64 = y.val := by omega
  have hcol : (y.val * 64 + x.val) % 64 = x.val := by omega
  simp only [fbGet, hrow, hcol]
  exact BitVec.getLsbD_eq_getElem x.isLt

/-- Writing to dirty the value it has changes nothing. -/
theorem setDirty_of_dirty_eq {s : State} {d : Bool} (h : s.dirty = d) : s.setDirty d = s := by
  rw [State.setDirty, ← h]

/-- A transition is the host's next action, on the state with that action taken (R267). -/
theorem step_of_nextAction {s u : State} {a : HostAction} (h : nextAction s = (a, u)) : step s = hostAct a u := by
  rw [step, hostTurn, h]

/-- The acknowledgement clears dirty, and its reply is the framebuffer as it was (R265). -/
theorem step_of_ackRender {s u : State} (h : nextAction s = (.ackRender, u)) :
    step s = .next ((u.setDirty false).setReply (.frame u.fb)) := by
  rw [step_of_nextAction h, hostAct]

/-! ### The obligation -/

/-- Settles O28: the acknowledgement writes dirty and the reply only; with dirty already clear, writing it changes
nothing; the framebuffer handed over is read row-major. -/
theorem renderAcknowledgementClearsDirty : Obligations.RenderAcknowledgementClearsDirty := by
  intro s u h
  refine ⟨step_of_ackRender h, fun hd => ?alreadyClear, fbGet_rowMajor u.fb⟩
  case alreadyClear => rw [step_of_ackRender h, setDirty_of_dirty_eq hd, State.setReply]

end Sys2Proof.Machine
end

section
/-! The fields of an opcode as numbers, the opcode as the composition of its fields, and the part of it that each mask
of the opcode map keeps (30_encoding.md R81, R83, R85). -/

namespace Sys2Proof

/-! ### Fields as numbers (R81) -/

theorem catField_toNat (op : Word) : (catField op).toNat = op.toNat / 4096 := by
  have := op.isLt
  rw [catField, BitVec.extractLsb'_toNat, Nat.shiftRight_eq_div_pow]
  omega

theorem nnField_toNat (op : Word) : (nnField op).toNat = op.toNat % 256 := by
  rw [nnField, BitVec.extractLsb'_toNat, Nat.shiftRight_zero]

theorem nField_toNat (op : Word) : (nField op).toNat = op.toNat % 16 := by
  rw [nField, BitVec.extractLsb'_toNat, Nat.shiftRight_zero]

/-! ### The opcode from its fields (R83) -/

theorem regNibble_xField (op : Word) : regNibble (xField op) = op.extractLsb' 8 4 := rfl

theorem regNibble_yField (op : Word) : regNibble (yField op) = op.extractLsb' 4 4 := rfl

theorem formatA_fields (op : Word) : formatA (catField op) (nnnField op) = op := by
  ext k hk
  rw [← BitVec.getLsbD_eq_getElem hk, ← BitVec.getLsbD_eq_getElem hk, formatA_bit]
  simp only [catField, nnnField, BitVec.getLsbD_extractLsb']
  grind

theorem formatRI_fields (op : Word) : formatRI (catField op) (xField op) (nnField op) = op := by
  ext k hk
  rw [← BitVec.getLsbD_eq_getElem hk, ← BitVec.getLsbD_eq_getElem hk, formatRI_bit]
  simp only [catField, regNibble_xField, nnField, BitVec.getLsbD_extractLsb']
  grind

theorem formatRR_fields (op : Word) : formatRR (catField op) (xField op) (yField op) (nField op) = op := by
  ext k hk
  rw [← BitVec.getLsbD_eq_getElem hk, ← BitVec.getLsbD_eq_getElem hk, formatRR_bit]
  simp only [catField, regNibble_xField, regNibble_yField, nField, BitVec.getLsbD_extractLsb']
  grind

/-! ### What a mask keeps (R85, R87) -/

theorem nibble_and_F (b : BitVec 4) : b &&& 0xF#4 = b := BitVec.and_allOnes

theorem byte_and_FF (b : Byte) : b &&& 0xFF#8 = b := BitVec.and_allOnes

theorem regNibble_zero : regNibble 0 = 0#4 := rfl

theorem formatA_and_F000 (c : BitVec 4) (nnn : BitVec 12) : formatA c nnn &&& 0xF000 = formatA c 0 := by
  rw [show (0xF000 : Word) = 0xF#4 ++ 0x000#12 from rfl, formatA, formatA, BitVec.and_append, nibble_and_F,
    BitVec.and_zero]
  rfl

theorem formatRI_and_F0FF (c : BitVec 4) (x : Reg) (nn : Byte) : formatRI c x nn &&& 0xF0FF = formatRI c 0 nn := by
  rw [show (0xF0FF : Word) = 0xF#4 ++ (0x0#4 ++ 0xFF#8) from rfl, formatRI, formatRI, BitVec.and_append,
    BitVec.and_append, nibble_and_F, BitVec.and_zero, byte_and_FF, regNibble_zero]

theorem formatRR_and_F00F (c : BitVec 4) (x y : Reg) (n : BitVec 4) :
    formatRR c x y n &&& 0xF00F = formatRR c 0 0 n := by
  rw [show (0xF00F : Word) = 0xF#4 ++ (0x0#4 ++ (0x0#4 ++ 0xF#4)) from rfl, formatRR, formatRR, BitVec.and_append,
    BitVec.and_append, BitVec.and_append, nibble_and_F, BitVec.and_zero, BitVec.and_zero, nibble_and_F, regNibble_zero]

theorem formatRR_and_FFF0 (c : BitVec 4) (x y : Reg) (n : BitVec 4) :
    formatRR c x y n &&& 0xFFF0 = formatRR c x y 0 := by
  rw [show (0xFFF0 : Word) = 0xF#4 ++ (0xF#4 ++ (0xF#4 ++ 0x0#4)) from rfl, formatRR, formatRR, BitVec.and_append,
    BitVec.and_append, BitVec.and_append, nibble_and_F, nibble_and_F, nibble_and_F, BitVec.and_zero]
  rfl

theorem and_F000 (op : Word) : op &&& 0xF000 = formatA (catField op) 0 := by
  rw [← formatA_and_F000 (catField op) (nnnField op), formatA_fields]

theorem and_F0FF (op : Word) : op &&& 0xF0FF = formatRI (catField op) 0 (nnField op) := by
  rw [← formatRI_and_F0FF (catField op) (xField op), formatRI_fields]

theorem and_F00F (op : Word) : op &&& 0xF00F = formatRR (catField op) 0 0 (nField op) := by
  rw [← formatRR_and_F00F (catField op) (xField op) (yField op), formatRR_fields]

theorem and_FFF0 (op : Word) : op &&& 0xFFF0 = formatRR (catField op) (xField op) (yField op) 0 := by
  rw [← formatRR_and_FFF0 (catField op) (xField op) (yField op) (nField op), formatRR_fields]

end Sys2Proof
end

section
/-! The decoder's case tree against the opcode map (30_encoding.md R84, R85): the rows that can select an opcode are
those of its category, and within a category the low byte or nibble chooses. -/

namespace Sys2Proof

/-! ### The rows of a category -/

/-- The rows of the opcode map whose pattern lies in category c. -/
def rowsOf (c : BitVec 4) : List OpcodeRow := opcodeMap.filter (catField ·.pattern == c)

/-- A row selects opcodes of its own category only. -/
theorem catField_of_selects {r : OpcodeRow} {op : Word} (hr : r ∈ opcodeMap) (h : r.selects op = true) :
    catField r.pattern = catField op := by
  have hmask : ∀ r ∈ opcodeMap, catField r.mask = 0xF := by decide
  exact (catField_of_match (hmask r hr) (eq_of_beq h)).symm

theorem decodeByMap_eq_rowsOf {op : Word} {c : BitVec 4} (hc : catField op = c) :
    decodeByMap op = ((rowsOf c).find? (·.selects op)).map (·.build op) := by
  rw [decodeByMap, rowsOf, List.find?_filter]
  congr 1
  refine List.find?_congr fun r hr => ?_
  rw [Bool.eq_iff_iff, decide_eq_true_iff, beq_iff_eq]
  exact ⟨fun h => ⟨(catField_of_selects hr h).trans hc, h⟩, And.right⟩

/-- In a category with one row, that row's instruction is the decoding. -/
theorem decodeByMap_of_single {op : Word} {c : BitVec 4} {r : OpcodeRow} (hrows : rowsOf c = [r])
    (hmask : r.mask = 0xF000) (hpat : r.pattern = formatA c 0) (hc : catField op = c) :
    decodeByMap op = some (r.build op) := by
  have hsel : r.selects op = true := by rw [OpcodeRow.selects, hmask, hpat, and_F000, hc, beq_self_eq_true]
  rw [decodeByMap_eq_rowsOf hc, hrows, List.find?_singleton, if_pos hsel, Option.map_some]

/-- In a category whose rows are chosen by the low nibble, the row with the opcode's N decodes it. -/
theorem decodeByMap_of_nField {op : Word} {c n : BitVec 4}
    (hrows : ∀ r ∈ rowsOf c, r.mask = 0xF00F ∧ r.pattern = formatRR c 0 0 (nField r.pattern))
    (hc : catField op = c) (hn : nField op = n) :
    decodeByMap op = ((rowsOf c).find? (nField ·.pattern == n)).map (·.build op) := by
  rw [decodeByMap_eq_rowsOf hc]
  congr 1
  refine List.find?_congr fun r hr => ?_
  obtain ⟨hmask, hpat⟩ := hrows r hr
  rw [Bool.eq_iff_iff, OpcodeRow.selects, hmask, and_F00F, hc, hn, beq_iff_eq, beq_iff_eq]
  refine ⟨fun h => ?_, fun h => ?_⟩
  · rw [← h, nField_formatRR]
  · rw [hpat, h]

/-- In a category whose rows are chosen by the low byte, the row with the opcode's NN decodes it. -/
theorem decodeByMap_of_nnField {op : Word} {c : BitVec 4} {nn : Byte}
    (hrows : ∀ r ∈ rowsOf c, r.mask = 0xF0FF ∧ r.pattern = formatRI c 0 (nnField r.pattern))
    (hc : catField op = c) (hnn : nnField op = nn) :
    decodeByMap op = ((rowsOf c).find? (nnField ·.pattern == nn)).map (·.build op) := by
  rw [decodeByMap_eq_rowsOf hc]
  congr 1
  refine List.find?_congr fun r hr => ?_
  obtain ⟨hmask, hpat⟩ := hrows r hr
  rw [Bool.eq_iff_iff, OpcodeRow.selects, hmask, and_F0FF, hc, hnn, beq_iff_eq, beq_iff_eq]
  refine ⟨fun h => ?_, fun h => ?_⟩
  · rw [← h, nnField_formatRI]
  · rw [hpat, h]

/-- No row of the category has the opcode's N: no row selects it. -/
theorem decodeByMap_eq_none_of_nField {op : Word} {c : BitVec 4} (l : List Nat)
    (hrows : ∀ r ∈ rowsOf c, r.mask = 0xF00F ∧ r.pattern = formatRR c 0 0 (nField r.pattern))
    (hl : ∀ r ∈ rowsOf c, (nField r.pattern).toNat ∈ l) (hc : catField op = c) (hn : (nField op).toNat ∉ l) :
    decodeByMap op = none := by
  rw [decodeByMap_of_nField hrows hc rfl, Option.map_eq_none_iff, List.find?_eq_none]
  exact fun r hr h => hn (eq_of_beq h ▸ hl r hr)

/-- No row of the category has the opcode's NN: no row selects it. -/
theorem decodeByMap_eq_none_of_nnField {op : Word} {c : BitVec 4} (l : List Nat)
    (hrows : ∀ r ∈ rowsOf c, r.mask = 0xF0FF ∧ r.pattern = formatRI c 0 (nnField r.pattern))
    (hl : ∀ r ∈ rowsOf c, (nnField r.pattern).toNat ∈ l) (hc : catField op = c) (hnn : (nnField op).toNat ∉ l) :
    decodeByMap op = none := by
  rw [decodeByMap_of_nnField hrows hc rfl, Option.map_eq_none_iff, List.find?_eq_none]
  exact fun r hr h => hnn (eq_of_beq h ▸ hl r hr)

/-! ### Each category of the case tree -/

theorem eq_ofNat_of_toNat_eq {w k : Nat} {b : BitVec w} (h : b.toNat = k) : b = BitVec.ofNat w k := by
  rw [← h, BitVec.ofNat_toNat, BitVec.setWidth_eq]

theorem toNat_not_mem_pair {a b k : Byte} (ha : k ≠ a) (hb : k ≠ b) : k.toNat ∉ [a.toNat, b.toNat] := by
  simp [BitVec.toNat_inj, ha, hb]

theorem decodeCat0_toOption {op : Word} (hc : catField op = 0) : (decodeCat0 op).toOption = decodeByMap op := by
  rw [decodeCat0]
  split
  case isTrue h => rw [decodeByMap_of_nnField (by decide) hc h]; rfl
  case isFalse hE0 =>
    split
    case isTrue h => rw [decodeByMap_of_nnField (by decide) hc h]; rfl
    case isFalse hEE =>
      rw [decodeByMap_eq_none_of_nnField _ (by decide) (by decide) hc (toNat_not_mem_pair hE0 hEE)]; rfl

theorem decodeCatE_toOption {op : Word} (hc : catField op = 0xE) : (decodeCatE op).toOption = decodeByMap op := by
  rw [decodeCatE]
  split
  case isTrue h => rw [decodeByMap_of_nnField (by decide) hc h]; rfl
  case isFalse h9E =>
    split
    case isTrue h => rw [decodeByMap_of_nnField (by decide) hc h]; rfl
    case isFalse hA1 =>
      rw [decodeByMap_eq_none_of_nnField _ (by decide) (by decide) hc (toNat_not_mem_pair h9E hA1)]; rfl

theorem decodeCat8_toOption {op : Word} (hc : catField op = 8) : (decodeCat8 op).toOption = decodeByMap op := by
  rw [decodeCat8]
  split
  case h_10 =>
    rw [decodeByMap_eq_none_of_nField [0x0, 0x1, 0x2, 0x3, 0x4, 0x5, 0x6, 0x7, 0xE] (by decide) (by decide) hc
      (by simp_all)]
    rfl
  all_goals
    next h => rw [decodeByMap_of_nField (by decide) hc (eq_ofNat_of_toNat_eq h)]; rfl

theorem decodeCatF_toOption {op : Word} (hc : catField op = 0xF) : (decodeCatF op).toOption = decodeByMap op := by
  rw [decodeCatF]
  split
  case h_10 =>
    rw [decodeByMap_eq_none_of_nnField [0x07, 0x0A, 0x15, 0x18, 0x1E, 0x29, 0x33, 0x55, 0x65] (by decide) (by decide) hc
      (by simp_all)]
    rfl
  all_goals
    next h => rw [decodeByMap_of_nnField (by decide) hc (eq_ofNat_of_toNat_eq h)]; rfl

/-- The case tree and the map give the same instruction, category by category. -/
theorem decodeWord_toOption (op : Word) : (decodeWord op).toOption = decodeByMap op := by
  rw [decodeWord]
  split
  case h_1 h => exact decodeCat0_toOption (eq_ofNat_of_toNat_eq h)
  case h_9 h => exact decodeCat8_toOption (eq_ofNat_of_toNat_eq h)
  case h_15 h => exact decodeCatE_toOption (eq_ofNat_of_toNat_eq h)
  case h_16 =>
    have hc : (catField op).toNat = 15 := by have := (catField op).isLt; grind
    exact decodeCatF_toOption (eq_ofNat_of_toNat_eq hc)
  all_goals
    next h => exact (decodeByMap_of_single rfl rfl rfl (eq_ofNat_of_toNat_eq h)).symm

end Sys2Proof
end

section
/-! The obligations on the encoding (30_encoding.md R84–R88): decode against the opcode map, the illegal set, the
ignored bits, and decode of encode. -/

namespace Sys2Proof

/-! ### At most one row selects an opcode -/

/-- Two rows differ in a bit that both masks hold, so no opcode is selected by both. -/
theorem opcodeMap_pairwise :
    opcodeMap.Pairwise fun r q => r.pattern &&& (r.mask &&& q.mask) ≠ q.pattern &&& (r.mask &&& q.mask) := by decide

theorem pattern_and_eq_of_selects {r : OpcodeRow} {op : Word} (m : Word) (h : r.selects op = true) :
    r.pattern &&& (r.mask &&& m) = op &&& (r.mask &&& m) := by
  rw [← eq_of_beq h, BitVec.and_assoc, ← BitVec.and_assoc r.mask, BitVec.and_self]

theorem length_filter_selects_le (op : Word) : (opcodeMap.filter (·.selects op)).length ≤ 1 := by
  have hpair := opcodeMap_pairwise.filter (·.selects op)
  have hmem : ∀ p ∈ opcodeMap.filter (·.selects op), p.selects op = true := fun p hp => by
    simpa using (List.mem_filter.mp hp).2
  generalize opcodeMap.filter (·.selects op) = l at hpair hmem ⊢
  match l, hpair, hmem with
  | [], _, _ => exact Nat.zero_le 1
  | [_], _, _ => exact Nat.le_refl 1
  | r :: q :: l, hpair, hmem =>
    refine absurd ?_ ((List.pairwise_cons.mp hpair).1 q List.mem_cons_self)
    rw [pattern_and_eq_of_selects q.mask (hmem r List.mem_cons_self), BitVec.and_comm r.mask,
      pattern_and_eq_of_selects r.mask (hmem q (by simp))]

/-! ### What an opcode decodes to -/

/-- An opcode that decodes is selected by a row of the map, whose instruction it decodes to. -/
theorem exists_row_of_decodeWord {op : Word} {i : Instr} (h : decodeWord op = .ok i) :
    ∃ r ∈ opcodeMap, r.selects op = true ∧ r.build op = i := by
  have hmap : decodeByMap op = some i := by rw [← decodeWord_toOption, h]; rfl
  obtain ⟨r, hr, hi⟩ := Option.map_eq_some_iff.mp hmap
  exact ⟨r, List.mem_of_find?_eq_some hr, List.find?_some (p := fun r : OpcodeRow => r.selects op) hr, hi⟩

/-- The only operand a field does not bound by its type is the sprite height, and it is four bits of the opcode. -/
theorem wf_of_decodeWord {op : Word} {i : Instr} (h : decodeWord op = .ok i) : i.wf = true := by
  obtain ⟨r, hr, -, rfl⟩ := exists_row_of_decodeWord h
  have hwf : ∀ r ∈ opcodeMap, (r.build op).wf = true := by
    have hn : (nField op).toNat ≤ 15 := Nat.le_of_lt_succ (nField op).isLt
    simp [opcodeMap, Instr.wf, hn]
  exact hwf r hr

theorem formatA_of_match {op w : Word} {c : BitVec 4} (hw : catField w = c) (h : (op &&& 0xF000 == w) = true) :
    op &&& 0xFFFF = formatA c (nnnField op) := by
  rw [← hw, ← catField_of_match rfl (eq_of_beq h), formatA_fields]
  exact BitVec.and_allOnes

theorem formatRI_of_match {op w : Word} {c : BitVec 4} (hw : catField w = c) (h : (op &&& 0xF000 == w) = true) :
    op &&& 0xFFFF = formatRI c (xField op) (nnField op) := by
  rw [← hw, ← catField_of_match rfl (eq_of_beq h), formatRI_fields]
  exact BitVec.and_allOnes

/-- The low nibble of the register skips is ignored. -/
theorem formatRR0_of_match {op w : Word} {c : BitVec 4} (hw : catField w = c) (h : (op &&& 0xF000 == w) = true) :
    op &&& 0xFFF0 = formatRR c (xField op) (yField op) 0 := by
  rw [← hw, ← catField_of_match rfl (eq_of_beq h), and_FFF0]

theorem formatRRN_of_match {op w : Word} {c : BitVec 4} (hw : catField w = c) (h : (op &&& 0xF000 == w) = true) :
    op &&& 0xFFFF = formatRR c (xField op) (yField op) (BitVec.ofNat 4 (nField op).toNat) := by
  rw [← hw, ← catField_of_match rfl (eq_of_beq h), ← eq_ofNat_of_toNat_eq rfl, formatRR_fields]
  exact BitVec.and_allOnes

theorem formatRR_of_match {op w : Word} {c n : BitVec 4} (hw : catField w = c) (hn : nField w = n)
    (h : (op &&& 0xF00F == w) = true) : op &&& 0xFFFF = formatRR c (xField op) (yField op) n := by
  rw [← hw, ← hn, ← catField_of_match rfl (eq_of_beq h), ← nField_of_match rfl (eq_of_beq h), formatRR_fields]
  exact BitVec.and_allOnes

theorem formatR_of_match {op w : Word} {c : BitVec 4} {nn : Byte} (hw : catField w = c) (hnn : nnField w = nn)
    (h : (op &&& 0xF0FF == w) = true) : op &&& 0xFFFF = formatRI c (xField op) nn := by
  rw [← hw, ← hnn, ← catField_of_match rfl (eq_of_beq h), ← nnField_of_match rfl (eq_of_beq h), formatRI_fields]
  exact BitVec.and_allOnes

/-- Row by row, in the order of the map: an opcode is, in its significant bits, the encoding of what it decodes to. -/
theorem and_significantMask_of_selects (op : Word) : ∀ r ∈ opcodeMap, r.selects op = true →
    op &&& significantMask (r.build op) = encode (r.build op) := by
  simp only [opcodeMap, List.cons_append, List.nil_append, List.forall_mem_cons]
  exact ⟨eq_of_beq, eq_of_beq, formatA_of_match rfl, formatA_of_match rfl, formatRI_of_match rfl,
    formatRI_of_match rfl, formatRR0_of_match rfl, formatRI_of_match rfl, formatRI_of_match rfl,
    formatRR_of_match rfl rfl, formatRR_of_match rfl rfl, formatRR_of_match rfl rfl, formatRR_of_match rfl rfl,
    formatRR_of_match rfl rfl, formatRR_of_match rfl rfl, formatRR_of_match rfl rfl, formatRR_of_match rfl rfl,
    formatRR_of_match rfl rfl, formatRR0_of_match rfl, formatA_of_match rfl, formatA_of_match rfl,
    formatRI_of_match rfl, formatRRN_of_match rfl, formatR_of_match rfl rfl, formatR_of_match rfl rfl,
    formatR_of_match rfl rfl, formatR_of_match rfl rfl, formatR_of_match rfl rfl, formatR_of_match rfl rfl,
    formatR_of_match rfl rfl, formatR_of_match rfl rfl, formatR_of_match rfl rfl, formatR_of_match rfl rfl,
    formatR_of_match rfl rfl, nofun⟩

theorem and_significantMask_of_decodeWord {op : Word} {i : Instr} (h : decodeWord op = .ok i) :
    op &&& significantMask i = encode i := by
  obtain ⟨r, hr, hsel, rfl⟩ := exists_row_of_decodeWord h
  exact and_significantMask_of_selects op r hr hsel

/-! ### Decode of encode -/

theorem decodeWord_encode {i : Instr} (h : i.wf = true) : decodeWord (encode i) = .ok i := by
  cases i
  case drw x y n =>
    have hn : n % 16 = n := Nat.mod_eq_of_lt (Nat.lt_succ_of_le (of_decide_eq_true h))
    simp [encode, decodeWord, hn]
  all_goals simp [encode, decodeWord, decodeCat0, decodeCat8, decodeCatE, decodeCatF]

/-- An opcode that agrees with a format RR above the low nibble has that format's category, X and Y. -/
theorem fields_of_and_FFF0 {op : Word} {c : BitVec 4} {x y : Reg} (h : op &&& 0xFFF0 = formatRR c x y 0) :
    catField op = c ∧ xField op = x ∧ yField op = y := by
  rw [and_FFF0] at h
  refine ⟨?_, ?_, ?_⟩
  · rw [← catField_formatRR (catField op) (xField op) (yField op) 0, h, catField_formatRR]
  · rw [← xField_formatRR (catField op) (xField op) (yField op) 0, h, xField_formatRR]
  · rw [← yField_formatRR (catField op) (xField op) (yField op) 0, h, yField_formatRR]

/-- The bits outside the significant mask do not matter: an opcode decodes to i when the others are those of i's
encoding. -/
theorem decodeWord_of_and_significantMask {op : Word} {i : Instr} (hwf : i.wf = true)
    (h : op &&& significantMask i = encode i) : decodeWord op = .ok i := by
  cases i
  case cls => rw [decodeWord_of_cat0 (catField_of_match rfl h), decodeCat0_of_nnE0 (nnField_of_match rfl h)]
  case ret =>
    rw [decodeWord_of_cat0 (catField_of_match rfl h), decodeCat0, nnField_of_match rfl h]; rfl
  case seVxVy x y =>
    obtain ⟨hc, rfl, rfl⟩ := fields_of_and_FFF0 h
    rw [decodeWord, hc]; rfl
  case sneVxVy x y =>
    obtain ⟨hc, rfl, rfl⟩ := fields_of_and_FFF0 h
    rw [decodeWord, hc]; rfl
  all_goals exact (BitVec.and_allOnes.symm.trans h) ▸ decodeWord_encode hwf

/-! ### The illegal set -/

theorem decodeCat0_eq_error_iff (op : Word) :
    decodeCat0 op = .error (.unknownOpcode op) ↔ op.toNat % 256 ∉ [0xE0, 0xEE] := by
  rw [← nnField_toNat, decodeCat0]
  simp only [← BitVec.toNat_inj]
  grind

theorem decodeCatE_eq_error_iff (op : Word) :
    decodeCatE op = .error (.unknownOpcode op) ↔ op.toNat % 256 ∉ [0x9E, 0xA1] := by
  rw [← nnField_toNat, decodeCatE]
  simp only [← BitVec.toNat_inj]
  grind

theorem decodeCat8_eq_error_iff (op : Word) :
    decodeCat8 op = .error (.unknownOpcode op) ↔ op.toNat % 16 ∈ [0x8, 0x9, 0xA, 0xB, 0xC, 0xD, 0xF] := by
  have hlt := (nField op).isLt
  rw [← nField_toNat, decodeCat8]
  simp only [List.mem_cons, List.not_mem_nil, or_false]
  split <;> grind

theorem decodeCatF_eq_error_iff (op : Word) :
    decodeCatF op = .error (.unknownOpcode op) ↔
      op.toNat % 256 ∉ [0x07, 0x0A, 0x15, 0x18, 0x1E, 0x29, 0x33, 0x55, 0x65] := by
  rw [← nnField_toNat, decodeCatF]
  simp only [List.mem_cons, List.not_mem_nil, or_false]
  split <;> grind

/-- The other categories have no illegal opcode. -/
theorem decodeWord_eq_error_iff (op : Word) :
    decodeWord op = .error (.unknownOpcode op) ↔
      (op.toNat / 4096 = 0x0 ∧ decodeCat0 op = .error (.unknownOpcode op)) ∨
        (op.toNat / 4096 = 0x8 ∧ decodeCat8 op = .error (.unknownOpcode op)) ∨
          (op.toNat / 4096 = 0xE ∧ decodeCatE op = .error (.unknownOpcode op)) ∨
            (op.toNat / 4096 = 0xF ∧ decodeCatF op = .error (.unknownOpcode op)) := by
  have hlt := (catField op).isLt
  rw [← catField_toNat, decodeWord]
  split <;> grind

/-! ### The obligations -/

/-- Settles O1: decode of encode as a word, and the two bytes compose to that word. -/
theorem decodeOfEncodeIsTheInstruction : Obligations.DecodeOfEncodeIsTheInstruction := by
  intro i hwf
  refine ⟨decodeWord_encode hwf, fun rest => ?bytes⟩
  case bytes =>
    simp only [encodeBytes, opcodeBytes, List.cons_append, List.nil_append, decode, Machine.composeOpcode_bytes,
      decodeWord_encode hwf]

/-- Settles O2: the two decoders agree category by category, and two rows always differ in a bit both look at. -/
theorem decoderAgreesWithTheOpcodeMap : Obligations.DecoderAgreesWithTheOpcodeMap :=
  fun op => ⟨decodeWord_toOption op, length_filter_selects_le op⟩

/-- Settles O3: the illegal set category by category; everything else is selected by a row of the map. -/
theorem unknownIsExactlyTheIllegalSet : Obligations.UnknownIsExactlyTheIllegalSet := by
  intro op
  refine ⟨?illegal, fun hne => ?legal⟩
  case illegal =>
    rw [decodeWord_eq_error_iff, decodeCat0_eq_error_iff, decodeCat8_eq_error_iff, decodeCatE_eq_error_iff,
      decodeCatF_eq_error_iff]
  case legal =>
    cases hd : decodeWord op with
    | ok i => exact ⟨i, rfl, wf_of_decodeWord hd⟩
    | error e => exact absurd (decodeWord_error hd ▸ hd) hne

/-- Settles O4: an opcode decodes to i exactly when its significant bits are those of i's encoding. -/
theorem onlyIgnoredBitsAreDropped : Obligations.OnlyIgnoredBitsAreDropped := by
  intro op op' i h
  rw [and_significantMask_of_decodeWord h]
  exact ⟨and_significantMask_of_decodeWord, decodeWord_of_and_significantMask (wf_of_decodeWord h)⟩

/-- Settles O5: each word is computed. -/
theorem sampleWordsDecode : Obligations.SampleWordsDecode := by
  unfold Obligations.SampleWordsDecode
  decide

end Sys2Proof
end

section
/-! What each instruction leaves when its own check passes (40_engine.md R115, 60_exceptions.md R260): exec is that
effect behind the check `ownFault` names, so every frame, fault and invariant is read off the effect. -/

namespace Sys2Proof.Machine

/-- The state a wait-key leaves (R216): the chosen key to VX, or the state as it was when there is none to choose. -/
def State.storeChosenKey (s : State) (x : Reg) : State :=
  match s.keyChoice with
  | some k => (s.takeDraw.setV x (BitVec.ofNat 8 k.val)).advance
  | none => s

theorem storeChosenKey_of_some {s : State} {k : Key} (x : Reg) (h : s.keyChoice = some k) :
    s.storeChosenKey x = (s.takeDraw.setV x (BitVec.ofNat 8 k.val)).advance := by
  rw [State.storeChosenKey, h]

theorem storeChosenKey_of_none {s : State} (x : Reg) (h : s.keyChoice = none) : s.storeChosenKey x = s := by
  rw [State.storeChosenKey, h]

/-- What an instruction leaves of s when its own check raises nothing, each arm as the fields it writes. -/
def effect (i : Instr) (s : State) : State :=
  match i with
  | .cls => ((s.setFb (Vector.replicate 32 0)).setDirty true).advance
  | .ret => { s with sp := s.pop.sp, pc := s.pop.pc + 2 }
  | .jp nnn => { s with pc := addrOf nnn, engine := if addrOf nnn = s.pc then .haltedOnSelfLoop else s.engine }
  | .call nnn => { s with stack := (s.push s.pc).stack, sp := (s.push s.pc).sp, pc := addrOf nnn }
  | .seVxNn x nn => s.setPc (if s.getV x == nn then s.pc + 4 else s.pc + 2)
  | .sneVxNn x nn => s.setPc (if s.getV x != nn then s.pc + 4 else s.pc + 2)
  | .seVxVy x y => s.setPc (if s.getV x == s.getV y then s.pc + 4 else s.pc + 2)
  | .sneVxVy x y => s.setPc (if s.getV x != s.getV y then s.pc + 4 else s.pc + 2)
  | .skp x => s.setPc (if s.keyHeld (s.getV x) then s.pc + 4 else s.pc + 2)
  | .sknp x => s.setPc (if !s.keyHeld (s.getV x) then s.pc + 4 else s.pc + 2)
  | .jpV0Nnn nnn => s.setPc (addrOf nnn + wordOf (s.getV 0))
  | .ldVxNn x nn => (s.setV x nn).advance
  | .addVxNn x nn => (s.setV x (s.getV x + nn)).advance
  | .ldVxVy x y => (s.setV x (s.getV y)).advance
  | .orVxVy x y => (s.setV x (s.getV x ||| s.getV y)).advance
  | .andVxVy x y => (s.setV x (s.getV x &&& s.getV y)).advance
  | .xorVxVy x y => (s.setV x (s.getV x ^^^ s.getV y)).advance
  | .addVxVy x y =>
    (s.setFlagged x (s.getV x + s.getV y) (addFlag s.params.addFlagRule (s.getV x) (s.getV y))).advance
  | .subVxVy x y => (s.setFlagged x (s.getV x - s.getV y) (noBorrow (s.getV x) (s.getV y))).advance
  | .shrVx x _ => (s.setFlagged x (s.getV x >>> 1) (shrFlag (s.getV x))).advance
  | .subnVxVy x y => (s.setFlagged x (s.getV y - s.getV x) (noBorrow (s.getV y) (s.getV x))).advance
  | .shlVx x _ => (s.setFlagged x (s.getV x <<< 1) (shlFlag (s.getV x))).advance
  | .rndVxNn x nn => (s.takeDraw.setV x (s.randomByte &&& nn)).advance
  | .drw x y n =>
    (((s.setFb (s.sprite x y n).1).setDirty true).setV VF (flagByte (s.sprite x y n).2)).advance
  | .ldVxK x =>
    { s with v := (s.storeChosenKey x).v, pc := (s.storeChosenKey x).pc, draws := (s.storeChosenKey x).draws }
  | .ldINnn nnn => (s.setI (addrOf nnn)).advance
  | .addIVx x =>
    ((s.setI (s.i + wordOf (s.getV x))).setV VF (flagByte (indexFlag (s.i + wordOf (s.getV x))))).advance
  | .ldFVx x => (s.setI (wordOf (s.getV x) * 5)).advance
  | .ldBVx x => (s.storeBytes s.indexAddr (bcdDigits (s.getV x))).advance
  | .ldMemVx x =>
    ((s.storeBytes s.indexAddr (s.regsUpTo x)).setI (s.i + BitVec.ofNat 16 (x.val + 1))).advance
  | .ldVxMem x =>
    ((s.setVs (loadRegs s.v 0 (s.bytesAt s.indexAddr (x.val + 1)))).setI (s.i + BitVec.ofNat 16 (x.val + 1))).advance
  | .ldVxDt x => (s.setV x s.dt).advance
  | .ldDtVx x => (s.setDt (s.getV x)).advance
  | .ldStVx x => (s.setSt (s.getV x)).advance

/-! ### The arms whose meaning branches -/

theorem effect_ret (s : State) : effect .ret s = s.pop.advance := by
  rw [pop_frame]; rfl

theorem effect_call (nnn : BitVec 12) (s : State) : effect (.call nnn) s = (s.push s.pc).setPc (addrOf nnn) := by
  rw [push_frame]; rfl

theorem effect_ldVxK (x : Reg) (s : State) : effect (.ldVxK x) s = s.storeChosenKey x := by
  cases h : s.keyChoice with
  | none => rw [effect, storeChosenKey_of_none x h]
  | some k => rw [effect, storeChosenKey_of_some x h]; rfl

/-! ### Exec is the effect behind the check -/

/-- A check that raises the fault given, if one is. -/
def raising (o : Option Fault) : Except Fault Unit :=
  match o with
  | none => .ok ()
  | some f => .error f

theorem checkPush_eq (nnn : BitVec 12) (s : State) : checkPush s = raising (ownFault (.call nnn) s) := by
  have hiff : s.sp.val = 16 ↔ s.sp = 16 := (Fin.ext_iff (b := (16 : Fin 17))).symm
  by_cases h : s.sp = 16
  · rw [checkPush, if_pos (hiff.mpr h), ownFault, if_pos h]; rfl
  · rw [checkPush, if_neg (mt hiff.mp h), ownFault, if_neg h]; rfl

theorem checkPop_eq (s : State) : checkPop s = raising (ownFault .ret s) := by
  have hiff : s.sp.val = 0 ↔ s.sp = 0 := (Fin.ext_iff (b := (0 : Fin 17))).symm
  by_cases h : s.sp = 0
  · rw [checkPop, if_pos (hiff.mpr h), ownFault, if_pos h]; rfl
  · rw [checkPop, if_neg (mt hiff.mp h), ownFault, if_neg h]; rfl

theorem checkSprite_eq (x y : Reg) (n : Nat) (s : State) : checkSprite s n = raising (ownFault (.drw x y n) s) := by
  rw [checkSprite, ownFault]
  split
  · rfl
  · exact checkRange_eq

/-- Every instruction takes the fault its own check names, and otherwise leaves its effect. -/
theorem exec_eq_guarded (i : Instr) (s : State) : exec i s = guarded (raising (ownFault i s)) s (effect i s) := by
  cases i
  case ret => rw [effect_ret, ← checkPop_eq]; rfl
  case call nnn => rw [effect_call, ← checkPush_eq]; rfl
  case jp nnn =>
    by_cases h : addrOf nnn = s.pc
    · rw [exec, execJp, if_pos h, effect, if_pos h, h]; rfl
    · rw [exec, execJp, if_neg h, effect, if_neg h]; rfl
  case drw x y n => rw [← checkSprite_eq]; rfl
  case skp x => rw [exec, execSkp, checkKey_eq, skipIf_eq]; rfl
  case sknp x => rw [exec, execSknp, checkKey_eq, skipIf_eq]; rfl
  case ldVxK x =>
    rw [effect_ldVxK, exec, execLdVxK, State.storeChosenKey]
    cases s.keyChoice <;> rfl
  case ldBVx x => rw [exec, execLdBVx, checkRange_eq]; rfl
  case ldMemVx x => rw [exec, execLdMemVx, checkRange_eq]; rfl
  case ldVxMem x => rw [exec, execLdVxMem, checkRange_eq]; rfl
  case seVxNn x nn => rw [exec, execSeVxNn, skipIf_eq]; rfl
  case sneVxNn x nn => rw [exec, execSneVxNn, skipIf_eq]; rfl
  case seVxVy x y => rw [exec, execSeVxVy, skipIf_eq]; rfl
  case sneVxVy x y => rw [exec, execSneVxVy, skipIf_eq]; rfl
  all_goals rfl

theorem exec_of_ownFault_none {i : Instr} {s : State} (h : ownFault i s = none) : exec i s = .next (effect i s) := by
  rw [exec_eq_guarded, h]; rfl

theorem exec_of_ownFault_some {i : Instr} {s : State} {f : Fault} (h : ownFault i s = some f) :
    exec i s = .next (s.setEngine (.awaitingReboot f)) := by
  rw [exec_eq_guarded, h]; rfl

/-- What exec can answer: the effect, when the check raises nothing, or the entry of the fault it raises. -/
theorem exec_eq_next {i : Instr} {s t : State} (h : exec i s = .next t) :
    (ownFault i s = none ∧ t = effect i s) ∨
      ∃ f, ownFault i s = some f ∧ t = s.setEngine (.awaitingReboot f) := by
  cases hf : ownFault i s with
  | none => exact .inl ⟨rfl, Host.Outcome.next.inj (h.symm.trans (exec_of_ownFault_none hf))⟩
  | some f => exact .inr ⟨f, rfl, Host.Outcome.next.inj (h.symm.trans (exec_of_ownFault_some hf))⟩

/-- Exec answers a next state, whatever the instruction and the state (R124). -/
theorem exists_exec_eq_next (i : Instr) (s : State) : ∃ t, exec i s = .next t := by
  cases hf : ownFault i s with
  | none => exact ⟨_, exec_of_ownFault_none hf⟩
  | some f => exact ⟨_, exec_of_ownFault_some hf⟩

/-- A component that no fault entry and not this effect touches is as before. -/
theorem exec_keeps {α : Type} {i : Instr} {s t : State} (p : State → α) (h : exec i s = .next t)
    (heff : p (effect i s) = p s) (hfault : ∀ e, p (s.setEngine e) = p s) : p t = p s := by
  obtain ⟨-, rfl⟩ | ⟨f, -, rfl⟩ := exec_eq_next h
  · exact heff
  · exact hfault _

/-! ### The engine after an effect (R115, R118) -/

/-- No effect but the jump to itself moves the engine. -/
theorem effect_engine (i : Instr) (s : State) :
    (effect i s).engine = s.engine ∨
      (effect i s).engine = .haltedOnSelfLoop ∧ ∃ nnn, i = .jp nnn ∧ nnn.toNat = s.pc.toNat := by
  cases i
  case jp nnn =>
    by_cases h : addrOf nnn = s.pc
    · exact .inr ⟨if_pos h, nnn, rfl, (addrOf_eq_iff nnn s.pc).mp h⟩
    · exact .inl (if_neg h)
  all_goals exact .inl rfl

end Sys2Proof.Machine
end

section
/-! Faults over all instructions (60_exceptions.md R250–R260): which are taken, and that nothing else is applied. -/

namespace Sys2Proof.Machine

/-- On a running machine an effect leaves no fault behind. -/
theorem effect_engine_ne_awaitingReboot {i : Instr} {s : State} (hr : s.engine = .running) (f : Fault) :
    (effect i s).engine ≠ .awaitingReboot f := by
  rcases effect_engine i s with h | ⟨h, -⟩
  · rw [h, hr]; exact nofun
  · rw [h]; exact nofun

/-- Settles O20: a state whose engine awaits a reboot is the fault's entry, since an effect leaves none. -/
theorem faultsArePrecise : Obligations.FaultsArePrecise := by
  intro i s t f hr h hf
  obtain ⟨-, rfl⟩ | ⟨g, -, rfl⟩ := exec_eq_next h
  · exact absurd hf (effect_engine_ne_awaitingReboot hr f)
  · rw [← hf]; rfl

/-- Settles O21: with no fault of its own an instruction leaves its effect, which is no fault's entry; otherwise it
takes that fault. -/
theorem instructionsFaultExactlyByTheirOwnCheck : Obligations.InstructionsFaultExactlyByTheirOwnCheck := by
  intro i s f hr
  refine ⟨fun h => ?taken, exec_of_ownFault_some⟩
  case taken =>
    obtain ⟨-, ht⟩ | ⟨g, hg, ht⟩ := exec_eq_next h
    · exact absurd (congrArg State.engine ht).symm (effect_engine_ne_awaitingReboot hr f)
    · obtain rfl : f = g := Engine.awaitingReboot.inj (congrArg State.engine ht)
      exact hg

/-- Settles O22: with no fault of its own an instruction leaves its effect, and only the jump to itself moves the
engine. -/
theorem instructionsExecuteWhenTheirCheckPasses : Obligations.InstructionsExecuteWhenTheirCheckPasses := by
  intro i s hr hf hj
  refine ⟨effect i s, exec_of_ownFault_none hf, ?running⟩
  case running =>
    rcases effect_engine i s with h | ⟨-, nnn, hi, hpc⟩
    · rw [h, hr]
    · exact absurd hpc (hj nnn hi)

end Sys2Proof.Machine
end

section
/-! Frames over all instructions (10_state.md R21–R34, 20_memory.md R56, 40_engine.md R124): what an effect leaves
alone. -/

namespace Sys2Proof.Machine

/-! ### Registers (R21, R22) -/

/-- The flag is read from VF, whatever the destination is; then the result from VX (R160). -/
theorem getV_setFlagged (s : State) (x : Reg) (b : Byte) (c : Bool) (r : Reg) :
    (s.setFlagged x b c).getV r = if r = 15 then flagByte c else if r = x then b else s.getV r := by
  simp only [State.setFlagged, State.getV_setV, eq_comm]

theorem getV_setFlagged_of_ne {s : State} {x r : Reg} (b : Byte) (c : Bool) (hx : r ≠ x) (hf : r ≠ 15) :
    (s.setFlagged x b c).getV r = s.getV r := by
  rw [getV_setFlagged, if_neg hf, if_neg hx]

theorem getV_setV_of_ne {s : State} {x r : Reg} (b : Byte) (h : r ≠ x) : (s.setV x b).getV r = s.getV r := by
  rw [State.getV_setV, if_neg (Ne.symm h)]

theorem getV_storeChosenKey_of_ne {s : State} {x r : Reg} (h : r ≠ x) : (s.storeChosenKey x).getV r = s.getV r := by
  rw [State.storeChosenKey]
  split
  · exact getV_setV_of_ne _ h
  · rfl

theorem getV_loadRegs (s : State) (bs : List Byte) (r : Reg) :
    (s.setVs (loadRegs s.v 0 bs)).getV r = (bs[r.val]?).getD (s.getV r) := by
  rw [State.getV, State.setVs_v]
  exact (getElem_loadRegs s.v 0 bs r.val r.isLt).trans (if_pos (Nat.zero_le _))

theorem getV_loadRegs_of_length_le {s : State} {bs : List Byte} {r : Reg} (h : bs.length ≤ r.val) :
    (s.setVs (loadRegs s.v 0 bs)).getV r = s.getV r := by
  rw [getV_loadRegs, List.getElem?_eq_none h, Option.getD_none]

theorem effect_getV {i : Instr} {r : Reg} (s : State) (hd : namesDest i r = false)
    (hf : r ≠ 15 ∨ writesFlag i = false) : (effect i s).getV r = s.getV r := by
  cases i
  case ldVxNn | addVxNn | rndVxNn | ldVxDt | ldVxVy | orVxVy | andVxVy | xorVxVy =>
    exact getV_setV_of_ne _ (ne_of_beq_false hd)
  case addVxVy | subVxVy | shrVx | subnVxVy | shlVx =>
    exact getV_setFlagged_of_ne _ _ (ne_of_beq_false hd) (hf.resolve_right nofun)
  case drw | addIVx => exact getV_setV_of_ne _ (hf.resolve_right nofun)
  case ldVxK => rw [effect_ldVxK]; exact getV_storeChosenKey_of_ne (ne_of_beq_false hd)
  case ldVxMem x =>
    have hx : ¬ r ≤ x := of_decide_eq_false hd
    refine getV_loadRegs_of_length_le ?_
    rw [length_bytesAt]
    exact Fin.lt_def.mp (not_le.mp hx)
  all_goals rfl

/-- Settles O56: neither an effect nor a fault's entry writes a register that is no destination and no flag. -/
theorem registersChangeOnlyAsDestinationOrFlag : Obligations.RegistersChangeOnlyAsDestinationOrFlag :=
  fun _ s _ r h hd hf => exec_keeps (·.getV r) h (effect_getV s hd hf) fun _ => rfl

/-! ### Memory (R56) -/

theorem effect_mem {i : Instr} (s : State) (h : storesToMemory i = false) : (effect i s).mem = s.mem := by
  cases i
  case ldBVx | ldMemVx => cases h
  all_goals rfl

theorem effect_params (i : Instr) (s : State) : (effect i s).params = s.params := by
  cases i <;> rfl

/-- Settles O57: only the effects of the two stores write memory, and no effect writes FONT. -/
theorem onlyStoresChangeMemory : Obligations.OnlyStoresChangeMemory := by
  intro i s t h hs a
  refine exec_keeps (·.byteAt a) h ?_ fun _ => rfl
  rw [State.byteAt, effect_mem s hs, effect_params, State.byteAt]

/-! ### The other components (R25–R34) -/

theorem effect_i {i : Instr} (s : State) (h : writesIndex i = false) : (effect i s).i = s.i := by
  cases i
  case ldINnn | addIVx | ldFVx | ldMemVx | ldVxMem => cases h
  all_goals rfl

theorem effect_stack {i : Instr} (s : State) (h : ∀ nnn, i ≠ .call nnn) : (effect i s).stack = s.stack := by
  cases i
  case call nnn => exact absurd rfl (h nnn)
  all_goals rfl

theorem effect_sp {i : Instr} (s : State) (hc : ∀ nnn, i ≠ .call nnn) (hr : i ≠ .ret) : (effect i s).sp = s.sp := by
  cases i
  case call nnn => exact absurd rfl (hc nnn)
  case ret => exact absurd rfl hr
  all_goals rfl

theorem effect_dt {i : Instr} (s : State) (h : ∀ x, i ≠ .ldDtVx x) : (effect i s).dt = s.dt := by
  cases i
  case ldDtVx x => exact absurd rfl (h x)
  all_goals rfl

theorem effect_st {i : Instr} (s : State) (h : ∀ x, i ≠ .ldStVx x) : (effect i s).st = s.st := by
  cases i
  case ldStVx x => exact absurd rfl (h x)
  all_goals rfl

theorem effect_fb_dirty {i : Instr} (s : State) (h : drawsToScreen i = false) :
    (effect i s).fb = s.fb ∧ (effect i s).dirty = s.dirty := by
  cases i
  case cls | drw => cases h
  all_goals exact ⟨rfl, rfl⟩

theorem effect_rom (i : Instr) (s : State) : (effect i s).rom = s.rom := by
  cases i <;> rfl

theorem effect_keys (i : Instr) (s : State) : (effect i s).keys = s.keys := by
  cases i <;> rfl

theorem effect_actions (i : Instr) (s : State) : (effect i s).actions = s.actions := by
  cases i <;> rfl

theorem effect_reply (i : Instr) (s : State) : (effect i s).reply = s.reply := by
  cases i <;> rfl

theorem exec_params {i : Instr} {s t : State} (h : exec i s = .next t) : t.params = s.params :=
  exec_keeps (·.params) h (effect_params i s) fun _ => rfl

theorem exec_rom {i : Instr} {s t : State} (h : exec i s = .next t) : t.rom = s.rom :=
  exec_keeps (·.rom) h (effect_rom i s) fun _ => rfl

/-- Settles O58: component by component, the effects that write it. -/
theorem eachComponentHasOnlyItsListedWriters : Obligations.EachComponentHasOnlyItsListedWriters := by
  intro i s t h
  refine ⟨fun hi => exec_keeps (·.i) h (effect_i s hi) fun _ => rfl,
    fun hc => exec_keeps (·.stack) h (effect_stack s hc) fun _ => rfl,
    fun hc hr => exec_keeps (·.sp) h (effect_sp s hc hr) fun _ => rfl,
    fun hd => exec_keeps (·.dt) h (effect_dt s hd) fun _ => rfl,
    fun hs => exec_keeps (·.st) h (effect_st s hs) fun _ => rfl,
    fun hd => ⟨exec_keeps (·.fb) h (effect_fb_dirty s hd).1 fun _ => rfl,
      exec_keeps (·.dirty) h (effect_fb_dirty s hd).2 fun _ => rfl⟩⟩

/-- Settles O59: no effect writes what the host owns. -/
theorem noInstructionWritesHostOwnedState : Obligations.NoInstructionWritesHostOwnedState :=
  fun i s _ h => ⟨exec_keeps (·.keys) h (effect_keys i s) fun _ => rfl, exec_params h, exec_rom h,
    exec_keeps (·.actions) h (effect_actions i s) fun _ => rfl,
    exec_keeps (·.reply) h (effect_reply i s) fun _ => rfl⟩

/-! ### Draws (R124) -/

theorem pop_setDraws (s : State) (d : Nat) : (s.setDraws d).pop = s.pop.setDraws d := by
  rw [State.pop, State.pop, apply_dite (State.setDraws · d)]; rfl

theorem push_setDraws (s : State) (a : Word) (d : Nat) : (s.setDraws d).push a = (s.push a).setDraws d := by
  rw [State.push, State.push, apply_dite (State.setDraws · d)]; rfl

theorem ownFault_setDraws (i : Instr) (s : State) (d : Nat) : ownFault i (s.setDraws d) = ownFault i s := by
  cases i <;> rfl

theorem effect_setDraws {i : Instr} (s : State) (d : Nat) (hrnd : ∀ x nn, i ≠ .rndVxNn x nn)
    (hkey : ∀ x, i ≠ .ldVxK x) : effect i (s.setDraws d) = (effect i s).setDraws d := by
  cases i
  case rndVxNn x nn => exact absurd rfl (hrnd x nn)
  case ldVxK x => exact absurd rfl (hkey x)
  case ret => rw [effect_ret, effect_ret, pop_setDraws]; rfl
  case call => rw [effect_call, effect_call, State.setDraws_pc, push_setDraws]; rfl
  all_goals rfl

/-- Settles O60: neither the check nor the effect of another instruction reads the count of draws. -/
theorem onlyRandomAndWaitKeyReadADraw : Obligations.OnlyRandomAndWaitKeyReadADraw := by
  intro i s t d hrnd hkey h
  have hown := ownFault_setDraws i s d
  obtain ⟨hf, rfl⟩ | ⟨f, hf, rfl⟩ := exec_eq_next h
  · exact (exec_of_ownFault_none (hown.trans hf)).trans (congrArg _ (effect_setDraws s d hrnd hkey))
  · exact exec_of_ownFault_some (hown.trans hf)

end Sys2Proof.Machine
end

section
/-! One transition by what fetch, decode, exec and the engine state answer (40_engine.md R112–R122, 45_timers.md
R233). -/

namespace Sys2Proof.Machine

/-! ### The two bytes at PC (R80, R113) -/

/-- Decoding two bytes is decoding the word they compose to. -/
theorem decodeWord_of_decode_pair {hi lo : Byte} {i : Instr} {rest : List Byte} (h : decode [hi, lo] = .ok (i, rest)) :
    decodeWord (composeOpcode hi lo) = .ok i := by
  rw [decode] at h
  split at h
  next j hj =>
    obtain ⟨rfl, -⟩ := Prod.mk.inj (Except.ok.inj h)
    exact hj
  next => cases h

/-- An opcode that no row selects is the decoder's error. -/
theorem decodeWord_error_of_decodeByMap_none {op : Word} (h : decodeByMap op = none) :
    ∃ e, decodeWord op = .error e := by
  rw [← decodeWord_toOption] at h
  cases hd : decodeWord op with
  | ok i => rw [hd] at h; cases h
  | error e => exact ⟨e, rfl⟩

/-! ### Steps that fail -/

theorem step_of_decode_error {s u : State} {op : Word} {e : DecodeError} (hs : stepsFrom s u) (hr : u.engine = .running)
    (hf : fetch u = .ok op) (hd : decodeWord op = .error e) : step s = .next (failStep (.unknownOpcode op) u) := by
  rw [step_of_stepsFrom hs, engineStep_of_running hr]
  simp only [stepRunning, hf, hd]

theorem failStep_eq (f : Fault) (s : State) :
    failStep f s = { s with engine := .awaitingReboot f, reply := .outcome ⟨.failed f, false, s.dirty⟩ } := rfl

/-! ### Steps that complete -/

/-- Only a wait-key with no key held blocks (R119). -/
theorem blocked_eq_false {i : Instr} {s : State} (h : (∃ x, i = .ldVxK x) → ∃ k : Key, s.keys[k] = true) :
    blocked i s = false := by
  cases i
  case ldVxK x =>
    obtain ⟨k, hk⟩ := h ⟨x, rfl⟩
    refine Bool.eq_false_iff.mpr fun hb => ?_
    rw [heldKeys_isEmpty.mp hb k] at hk
    cases hk
  all_goals rfl

theorem report_timerUpdate_st_toNat (b : Bool) (t : State) : (report b (timerUpdate t)).st.toNat = t.st.toNat - 1 :=
  countDown_toNat t.st

theorem report_timerUpdate_reply (t : State) :
    (report (beeps t) (timerUpdate t)).reply = .outcome ⟨statusOf t.engine, decide (t.st = 1), t.dirty⟩ := by
  rw [beeps_eq]; rfl

/-- A timer update and a report touch the timers and the reply only. -/
theorem report_timerUpdate_frame (b : Bool) (t : State) :
    report b (timerUpdate t) = { t with
      dt := (report b (timerUpdate t)).dt, st := (report b (timerUpdate t)).st
      reply := (report b (timerUpdate t)).reply } := rfl

/-! ### Steps outside Running (R121, R122) -/

theorem step_of_halted {s u : State} (hs : stepsFrom s u) (hh : u.engine = .haltedOnSelfLoop) :
    step s = .next (report (beeps u) (timerUpdate u)) := by
  rw [step_of_stepsFrom hs, engineStep, hh]

theorem step_of_awaitingReboot {s u : State} {f : Fault} (hs : stepsFrom s u) (hf : u.engine = .awaitingReboot f) :
    step s = .next (report false u) := by
  rw [step_of_stepsFrom hs, engineStep, hf]

/-! ### The other actions of the host (R264, R267) -/

theorem getElem_setKey (s : State) (k j : Key) (d : Bool) :
    (s.setKey k d).keys[j] = if j = k then d else s.keys[j] := by
  simp [Vector.getElem_set, Fin.ext_iff, eq_comm]

theorem step_of_keyEvent {s u : State} {k : Key} {down : Bool}
    (h : nextAction s = (if down then .keyDown k else .keyUp k, u)) :
    step s = .next ((u.setKey k down).setReply .nothing) := by
  rw [step_of_nextAction h]
  cases down <;> rfl

theorem step_of_reboot {s u : State} (h : nextAction s = (.reboot, u)) :
    step s = .next (reboot Config.rebootProgramBytes u) := by
  rw [step_of_nextAction h, hostAct]

/-! ### A next state for every state (R124) -/

theorem exists_stepRunning_eq_next (s : State) : ∃ t, stepRunning s = .next t := by
  rw [stepRunning]
  cases fetch s with
  | error f => exact ⟨_, rfl⟩
  | ok op =>
    cases hd : decodeWord op with
    | error e => exact ⟨failStep (.unknownOpcode op) s, by simp only [hd]⟩
    | ok i =>
      obtain ⟨t, ht⟩ := exists_exec_eq_next i s
      exact ⟨finish i s t, by simp only [hd, ht]⟩

theorem exists_engineStep_eq_next (s : State) : ∃ t, engineStep s = .next t := by
  rw [engineStep]
  cases s.engine with
  | running => exact exists_stepRunning_eq_next s
  | haltedOnSelfLoop => exact ⟨_, rfl⟩
  | awaitingReboot f => exact ⟨_, rfl⟩

/-! ### The obligations -/

/-- Settles O6: the two bytes at PC are the opcode fetched, and their decoding is its decoding. -/
theorem stepRunsTheDecodedInstruction : Obligations.StepRunsTheDecodedInstruction := by
  intro s u t i hs hr hpc hd he
  exact step_of_exec_next hs hr (fetch_of_lt hpc) (decodeWord_of_decode_pair hd) he

/-- Settles O8: both failures end the step before execution, and a failed step is written out. -/
theorem fetchAndDecodeFaultsFailTheStep : Obligations.FetchAndDecodeFaultsFailTheStep := by
  refine ⟨fun s u f hs hr hf => ?fetchRaises, fun s u op hs hr hf hmap => ?unknown⟩
  case fetchRaises => rw [step_of_fetch_error hs hr hf, failStep_eq]
  case unknown =>
    obtain ⟨e, hd⟩ := decodeWord_error_of_decodeByMap_none hmap
    rw [step_of_decode_error hs hr hf hd, failStep_eq]

/-- Settles O9: the instruction has completed, so the step ends with the timer update and its beep. -/
theorem completedStepUpdatesTheTimers : Obligations.CompletedStepUpdatesTheTimers := by
  intro s u t op i hs hr hf hd he ht hkey
  have hstep : step s = .next (report (beeps t) (timerUpdate t)) := by
    rw [step_of_exec_next hs hr hf hd he, finish_of_running ht (blocked_eq_false hkey)]
  refine ⟨_, hstep, report_timerUpdate_dt_toNat _ t, report_timerUpdate_st_toNat _ t, ?reply,
    report_timerUpdate_frame _ t⟩
  case reply => rw [report_timerUpdate_reply, ht]; rfl

/-- Settles O11: the jump to itself leaves the engine halted, so its step only reports; and no other effect, nor a
fault's entry, halts. -/
theorem onlyTheSelfJumpHalts : Obligations.OnlyTheSelfJumpHalts := by
  refine ⟨fun s u op nnn hs hr hf hd hpc => ?halts, fun i s t hr he ht => ?only⟩
  case halts =>
    have hne : (u.setEngine .haltedOnSelfLoop).engine ≠ .running := nofun
    rw [step_of_exec_next hs hr hf hd (exec_jp_of_eq hpc), finish_of_not_running _ _ hne, report_eq]; rfl
  case only =>
    obtain ⟨-, rfl⟩ | ⟨f, -, rfl⟩ := exec_eq_next he
    · rcases effect_engine i s with h | ⟨-, hjp⟩
      · rw [h, hr] at ht; cases ht
      · exact hjp
    · cases ht

/-- Settles O12: the halted step is a timer update with its report, the step after a fault a report alone. -/
theorem stepsOutsideRunning : Obligations.StepsOutsideRunning := by
  refine ⟨fun s u hs hh => ⟨_, step_of_halted hs hh, report_timerUpdate_dt_toNat _ u,
    report_timerUpdate_st_toNat _ u, ?reply, report_timerUpdate_frame _ u⟩, fun s u f hs hf => ?failed⟩
  case reply => rw [report_timerUpdate_reply, hh]; rfl
  case failed => rw [step_of_awaitingReboot hs hf, report_eq, hf]; rfl

/-- Settles O13: each action of the host answers a next state, the engine's step because exec does. -/
theorem everyTransitionAnswersANextState : Obligations.EveryTransitionAnswersANextState := by
  intro s
  rw [step, hostTurn, hostAct.eq_def]
  cases (nextAction s).1 with
  | step => exact exists_engineStep_eq_next _
  | keyDown k => exact ⟨_, rfl⟩
  | keyUp k => exact ⟨_, rfl⟩
  | ackRender => exact ⟨_, rfl⟩
  | reboot => exact ⟨_, rfl⟩

/-- Settles O27: the event writes one slot of the keypad and the reply. -/
theorem keyEventsSetOneSlot : Obligations.KeyEventsSetOneSlot :=
  fun _ u k down h => ⟨_, step_of_keyEvent h, fun j => getElem_setKey u k j down, rfl⟩

end Sys2Proof.Machine
end

section
/-! What every transition keeps (10_state.md R34, 20_memory.md R50, 40_engine.md R110, 41_control_flow.md R148). -/

namespace Sys2Proof.Machine

/-! ### A component that an engine step keeps -/

/-- A component that no exec, report, timer update or engine change touches is kept by a step of the engine. -/
theorem engineStep_keeps {α : Type} {s t : State} (p : State → α) (h : engineStep s = .next t)
    (hexec : ∀ i u, exec i s = .next u → p u = p s) (hreport : ∀ b u, p (report b u) = p u)
    (htimer : ∀ u, p (timerUpdate u) = p u) (hengine : ∀ u e, p (u.setEngine e) = p u) : p t = p s := by
  have hfail : ∀ f, p (failStep f s) = p s := fun f => (hreport false _).trans (hengine s _)
  obtain ⟨-, h⟩ | ⟨-, rfl⟩ | ⟨f, -, rfl⟩ := engineStep_cases h
  · obtain ⟨f, -, rfl⟩ | ⟨op, e, -, -, rfl⟩ | ⟨op, i, u, -, -, hu, rfl⟩ := stepRunning_cases h
    · exact hfail f
    · exact hfail _
    · rcases finish_cases i s u with ⟨-, hfin⟩ | ⟨-, hfin⟩
      · rw [hfin, hreport, htimer, hexec i u hu]
      · rw [hfin, hreport, hexec i u hu]
  · rw [hreport, htimer]
  · exact hreport false s

/-- Settles O19: no instruction writes either, and no host action does, a reboot among them. -/
theorem parametersAndImageNeverChange : Obligations.ParametersAndImageNeverChange := by
  intro s t h
  obtain ⟨a, u, hau, hcases⟩ := step_cases h
  obtain ⟨hu, -, -⟩ := nextAction_frame hau
  have hparams : u.params = s.params := by rw [hu]
  have hrom : u.rom = s.rom := by rw [hu]
  rw [← hparams, ← hrom]
  obtain ⟨-, he⟩ | ⟨k, -, rfl⟩ | ⟨k, -, rfl⟩ | ⟨-, rfl⟩ | ⟨-, rfl⟩ := hcases
  · exact ⟨engineStep_keeps (·.params) he (fun _ _ => exec_params) (fun _ _ => rfl) (fun _ => rfl) fun _ _ => rfl,
      engineStep_keeps (·.rom) he (fun _ _ => exec_rom) (fun _ _ => rfl) (fun _ => rfl) fun _ _ => rfl⟩
  all_goals exact ⟨rfl, rfl⟩

/-! ### The engine outside Running (R110, R258) -/

theorem engineStep_engine_of_not_running {s t : State} (h : engineStep s = .next t) (hr : s.engine ≠ .running) :
    t.engine = s.engine := by
  obtain ⟨he, -⟩ | ⟨-, rfl⟩ | ⟨f, -, rfl⟩ := engineStep_cases h
  · exact absurd he hr
  · rfl
  · rfl

/-- Settles O16: outside Running a step of the engine, a key event and an acknowledgement leave the engine as it is; a
reboot gives the engine of reset. -/
theorem onlyRebootLeavesHaltOrFault : Obligations.OnlyRebootLeavesHaltOrFault := by
  refine ⟨fun s t h hr ha => ?stays, fun s ha => ?runs⟩
  case stays =>
    obtain ⟨a, u, hau, hcases⟩ := step_cases h
    have hengine : u.engine = s.engine := by rw [(nextAction_frame hau).1]
    have hne : a ≠ .reboot := by rw [hau] at ha; exact ha
    rw [← hengine] at hr ⊢
    obtain ⟨-, he⟩ | ⟨k, -, rfl⟩ | ⟨k, -, rfl⟩ | ⟨-, rfl⟩ | ⟨ha, -⟩ := hcases
    · exact engineStep_engine_of_not_running he hr
    · rfl
    · rfl
    · rfl
    · exact absurd ha hne
  case runs => exact ⟨_, step_of_reboot (Prod.ext ha rfl), rfl⟩

/-! ### The invariant (R50, R148) -/

/-- The invariant reads memory, the parameters, PC, the stack and the ROM image only. -/
theorem inv_of_eq {s t : State} (hs : s.Inv) (hmem : t.mem = s.mem) (hparams : t.params = s.params) (hpc : t.pc = s.pc)
    (hstack : t.stack = s.stack) (hrom : t.rom = s.rom) : t.Inv := by
  rw [State.Inv, hmem, hparams, hpc, hstack, hrom]
  exact hs

theorem toNat_add_le {a b : Word} {m n : Nat} (ha : a.toNat ≤ m) (hb : b.toNat ≤ n) : (a + b).toNat ≤ m + n :=
  le_trans (BitVec.toNat_add a b ▸ Nat.mod_le _ _) (Nat.add_le_add ha hb)

/-- PC after a skip or the default advance of an instruction that was fetched. -/
theorem toNat_skip_le {pc : Word} (c : Bool) (h : pc.toNat ≤ 0xFFE) :
    (if c then pc + 4 else pc + 2).toNat ≤ 0x10FE := by
  cases c
  · exact le_trans (toNat_add_le (b := 2) h le_rfl) (by decide)
  · exact le_trans (toNat_add_le (b := 4) h le_rfl) (by decide)

theorem pop_pc_le {s : State} (hpc : s.pc.toNat ≤ 0xFFE) (hstack : ∀ j : Fin 16, s.stack[j].toNat ≤ 0xFFE) :
    s.pop.pc.toNat ≤ 0xFFE := by
  by_cases h : 0 < s.sp.val
  · rw [pop_pc h]; exact hstack ⟨s.sp.val - 1, by omega⟩
  · rw [State.pop, dif_neg h]; exact hpc

theorem storeChosenKey_pc (s : State) (x : Reg) :
    (s.storeChosenKey x).pc = if s.keyChoice.isSome then s.pc + 2 else s.pc := by
  cases h : s.keyChoice with
  | none => rw [storeChosenKey_of_none x h]; rfl
  | some k => rw [storeChosenKey_of_some x h]; rfl

/-- The highest PC is that of jump+offset, NNN + V0 (R147, R148). -/
theorem effect_pc_le (i : Instr) {s : State} (hpc : s.pc.toNat ≤ 0xFFE)
    (hstack : ∀ j : Fin 16, s.stack[j].toNat ≤ 0xFFE) : (effect i s).pc.toNat ≤ 0x10FE := by
  have hnnn : ∀ nnn : BitVec 12, (addrOf nnn).toNat ≤ 0x10FE := fun nnn => le_trans (addrOf_toNat_le nnn) (by decide)
  cases i
  case jp nnn => exact hnnn nnn
  case call nnn => exact hnnn nnn
  case ret => exact le_trans (toNat_add_le (b := 2) (pop_pc_le hpc hstack) le_rfl) (by decide)
  case jpV0Nnn nnn =>
    have hv : (wordOf (s.getV 0)).toNat ≤ 0xFF := by
      rw [wordOf, BitVec.toNat_setWidth_of_le (by decide)]
      exact Nat.le_of_lt_succ (s.getV 0).isLt
    exact toNat_add_le (addrOf_toNat_le nnn) hv
  case ldVxK x =>
    rw [effect_ldVxK, storeChosenKey_pc]
    split
    · exact toNat_skip_le false hpc
    · exact le_trans hpc (by decide)
  case seVxNn | sneVxNn | seVxVy | sneVxVy | skp | sknp => exact toNat_skip_le _ hpc
  all_goals exact toNat_skip_le false hpc

theorem push_stack_le {s : State} {a : Word} (ha : a.toNat ≤ 0xFFE)
    (hstack : ∀ j : Fin 16, s.stack[j].toNat ≤ 0xFFE) (j : Fin 16) : (s.push a).stack[j].toNat ≤ 0xFFE := by
  by_cases h : s.sp.val < 16
  · rw [push_stack h]
    split
    · exact ha
    · exact hstack j
  · rw [State.push, dif_neg h]; exact hstack j

/-- A call pushes its own PC, an address an instruction was fetched at (R140, R142). -/
theorem effect_stack_le (i : Instr) {s : State} (hpc : s.pc.toNat ≤ 0xFFE)
    (hstack : ∀ j : Fin 16, s.stack[j].toNat ≤ 0xFFE) (j : Fin 16) : (effect i s).stack[j].toNat ≤ 0xFFE := by
  by_cases hcall : ∃ nnn, i = .call nnn
  · obtain ⟨nnn, rfl⟩ := hcall
    exact push_stack_le hpc hstack j
  · rw [effect_stack s fun nnn h => hcall ⟨nnn, h⟩]
    exact hstack j

theorem add_le_of_rangeFault_none {a n : Nat} (h : rangeFault a n = none) : a + n ≤ 4096 := by
  rw [rangeFault] at h
  split at h
  · cases h
  · omega

/-- The check of a store passes only when its bytes lie below 4096, so they are written in canonical form. -/
theorem effect_wf {i : Instr} {s : State} (hown : ownFault i s = none) (h : Memory.wf s.params.font s.mem) :
    Memory.wf s.params.font (effect i s).mem := by
  cases i
  case ldBVx x => exact wf_writeBytes _ h (add_le_of_rangeFault_none hown)
  case ldMemVx x =>
    refine wf_writeBytes _ h ?_
    rw [length_regsUpTo]
    exact add_le_of_rangeFault_none hown
  all_goals exact h

theorem exec_inv {i : Instr} {s t : State} (hinv : s.Inv) (hpc : s.pc.toNat + 1 < 4096) (h : exec i s = .next t) :
    t.Inv := by
  have ⟨hmem, _, hstack, hrom⟩ := hinv
  have hpc' : s.pc.toNat ≤ 0xFFE := by omega
  obtain ⟨hown, rfl⟩ | ⟨f, -, rfl⟩ := exec_eq_next h
  · refine ⟨?_, effect_pc_le i hpc' hstack, effect_stack_le i hpc' hstack, ?_⟩
    · rw [effect_params]; exact effect_wf hown hmem
    · rw [effect_rom]; exact hrom
  · exact inv_of_eq hinv rfl rfl rfl rfl rfl

theorem finish_inv {i : Instr} {s t : State} (h : t.Inv) : (finish i s t).Inv := by
  rcases finish_cases i s t with ⟨-, hfin⟩ | ⟨-, hfin⟩
  · rw [hfin]; exact inv_of_eq h rfl rfl rfl rfl rfl
  · rw [hfin]; exact inv_of_eq h rfl rfl rfl rfl rfl

theorem engineStep_inv {s t : State} (hinv : s.Inv) (h : engineStep s = .next t) : t.Inv := by
  obtain ⟨-, h⟩ | ⟨-, rfl⟩ | ⟨f, -, rfl⟩ := engineStep_cases h
  · obtain ⟨f, -, rfl⟩ | ⟨op, e, -, -, rfl⟩ | ⟨op, i, u, hf, -, hu, rfl⟩ := stepRunning_cases h
    · exact inv_of_eq hinv rfl rfl rfl rfl rfl
    · exact inv_of_eq hinv rfl rfl rfl rfl rfl
    · exact finish_inv (exec_inv hinv (fetch_ok_pc hf) hu)
  · exact inv_of_eq hinv rfl rfl rfl rfl rfl
  · exact inv_of_eq hinv rfl rfl rfl rfl rfl

/-- Settles O15: no cell is listed, and the other bounds are those of reset's own values. -/
theorem resetMeetsTheInvariant : Obligations.ResetMeetsTheInvariant :=
  ⟨wf_nil _, by decide, by decide, by decide⟩

/-- The program a reboot loads has the length of the ROM image, so it fits above 0x200 (R66). -/
theorem reboot_inv {s : State} (policy : Config.RebootProgramBytes) (hrom : s.rom.length ≤ maxRomSize) :
    (reboot policy s).Inv := by
  have hlen : loadAddr + (rebootProgram policy s).length ≤ memSize := by
    rw [length_rebootProgram]
    simp only [loadAddr, memSize, maxRomSize] at *
    omega
  obtain ⟨-, hpc, hstack, -⟩ := resetMeetsTheInvariant
  exact ⟨wf_writeBytes _ (wf_nil _) hlen, hpc, hstack, hrom⟩

/-- Settles O14: an engine step keeps the invariant instruction by instruction, a reboot sets it up again, and the other
actions touch no component it reads. -/
theorem everyTransitionKeepsTheInvariant : Obligations.EveryTransitionKeepsTheInvariant := by
  intro s t hinv h
  obtain ⟨a, u, hau, hcases⟩ := step_cases h
  have hu : u.Inv := by
    rw [(nextAction_frame hau).1]
    exact inv_of_eq hinv rfl rfl rfl rfl rfl
  obtain ⟨-, he⟩ | ⟨k, -, rfl⟩ | ⟨k, -, rfl⟩ | ⟨-, rfl⟩ | ⟨-, rfl⟩ := hcases
  · exact engineStep_inv hu he
  · exact inv_of_eq hu rfl rfl rfl rfl rfl
  · exact inv_of_eq hu rfl rfl rfl rfl rfl
  · exact inv_of_eq hu rfl rfl rfl rfl rfl
  · obtain ⟨-, -, -, hrom⟩ := hu
    exact reboot_inv _ hrom

end Sys2Proof.Machine
end

section
/-! Whole runs outside Running (40_engine.md R121, R122, 60_exceptions.md R258). -/

namespace Sys2Proof.Machine

/-! ### After a fault -/

/-- After a fault every action but a reboot leaves all but dirty, the keypad and the host-side fields as they are. -/
theorem step_of_faulted {s : State} {f : Fault} (hf : s.engine = .awaitingReboot f)
    (hno : HostAction.reboot ∉ s.actions) : ∃ u, step s = .next u ∧ u.actions = s.actions.tail ∧
      u = { s with dirty := u.dirty, keys := u.keys, actions := u.actions, reply := u.reply } := by
  obtain ⟨u, hu⟩ := everyTransitionAnswersANextState s
  obtain ⟨a, v, hav, hcases⟩ := step_cases hu
  obtain ⟨hv, htail, ha⟩ := nextAction_frame hav
  refine ⟨u, hu, ?_⟩
  rw [← htail]
  obtain ⟨-, he⟩ | ⟨k, -, rfl⟩ | ⟨k, -, rfl⟩ | ⟨-, rfl⟩ | ⟨rfl, -⟩ := hcases
  · have hve : v.engine = .awaitingReboot f := by rw [hv, ← hf]
    obtain ⟨hrun, -⟩ | ⟨hhalt, -⟩ | ⟨g, -, rfl⟩ := engineStep_cases he
    · rw [hve] at hrun; cases hrun
    · rw [hve] at hhalt; cases hhalt
    · exact ⟨rfl, by rw [hv]; rfl⟩
  · exact ⟨rfl, by rw [hv]; rfl⟩
  · exact ⟨rfl, by rw [hv]; rfl⟩
  · exact ⟨rfl, by rw [hv]; rfl⟩
  · exact absurd (ha.resolve_left nofun) hno

/-- Settles O17, by induction on the number of transitions: each leaves the engine after the fault, and takes an action
from a list with no reboot. -/
theorem faultedRunIsFrozen : Obligations.FaultedRunIsFrozen := by
  intro n
  induction n with
  | zero => exact fun s f hf hno => ⟨s, rfl, rfl⟩
  | succ n ih =>
    intro s f hf hno
    obtain ⟨u, hstep, hactions, hu⟩ := step_of_faulted hf hno
    have huf : u.engine = .awaitingReboot f := by rw [hu]; exact hf
    have huno : HostAction.reboot ∉ u.actions := by
      rw [hactions]
      exact fun h => hno (List.mem_of_mem_tail h)
    obtain ⟨t, hrun, ht⟩ := ih u f huf huno
    have htrans : t = { s with dirty := t.dirty, keys := t.keys, actions := t.actions, reply := t.reply } :=
      ht.trans (by rw [hu])
    exact ⟨t, (run_succ hstep).trans hrun, htrans⟩

/-! ### After the self-loop halt -/

/-- Settles O18, by induction on the number of steps: the first takes one from each timer and leaves a halted state with
no pending action; it is also the last one that can beep when there are no more. -/
theorem haltedRunCountsTheTimersDown : Obligations.HaltedRunCountsTheTimersDown := by
  intro n
  induction n with
  | zero => exact fun s hh hact => ⟨s, rfl, rfl, rfl, nofun, rfl⟩
  | succ n ih =>
    intro s hh hact
    have hs : stepsFrom s s := by rw [stepsFrom, nextAction, hact]
    have hdt := report_timerUpdate_dt_toNat (beeps s) s
    have hst := report_timerUpdate_st_toNat (beeps s) s
    obtain ⟨t, hrun, htdt, htst, hreply, ht⟩ := ih (report (beeps s) (timerUpdate s)) hh hact
    refine ⟨t, (run_succ (step_of_halted hs hh)).trans hrun, by omega, by omega, fun _ => ?reply, ht⟩
    case reply =>
      cases n with
      | zero =>
        obtain rfl : report (beeps s) (timerUpdate s) = t := Host.Outcome.next.inj hrun
        rw [report_timerUpdate_reply, hh]
        simp only [← BitVec.toNat_inj]
        rfl
      | succ n =>
        have hiff : s.st.toNat - 1 = n + 1 ↔ s.st.toNat = n + 1 + 1 := by omega
        rw [hreply (Nat.succ_pos n), hst]
        simp only [hiff]
        rfl

end Sys2Proof.Machine
end

section
/-! Construction and reboot (70_reset_and_hazards.md R290–R293): what they load and what they reset. -/

namespace Sys2Proof.Machine

theorem construct_eq_none {p : Config.Params} {rom : List Byte} (h : 3584 < rom.length) : construct p rom = none := by
  rw [construct, if_neg (Nat.not_le.mpr h)]

/-- Bytes read back one by one are the bytes read. -/
theorem bytesAt_eq_of_forall {s : State} {a : Nat} {bs : List Byte}
    (h : ∀ j, j < bs.length → bs[j]? = some (s.byteAt (a + j))) : s.bytesAt a bs.length = bs := by
  refine List.ext_getElem? fun j => ?_
  rw [getElem?_bytesAt]
  split
  case isTrue hj => exact (h j hj).symm
  case isFalse hj => exact (List.getElem?_eq_none (Nat.le_of_not_lt hj)).symm

/-- Settles O24: an accepted ROM is loaded over FONT and zeroes, and every other component is reset's. -/
theorem constructionLoadsFontAndRom : Obligations.ConstructionLoadsFontAndRom := by
  intro p rom
  refine ⟨construct_eq_none, fun h => ⟨_, construct_eq_some_iff.mpr ⟨h, rfl⟩, ?_⟩⟩
  obtain ⟨hfont, hzero, hrom⟩ := read_loaded p.font rom
  exact ⟨hfont, fun a h1 h2 => hzero a h1 (.inl h2), hrom, fun a ha => hzero a (by omega) (.inr ha), rfl, rfl, rfl,
    fun j => Vector.getElem_replicate j.isLt, rfl, rfl, fbGet_replicate_zero, rfl,
    fun k => Vector.getElem_replicate k.isLt, rfl, getV_of_v_eq_reset rfl, rfl, rfl⟩

/-- Settles O25: the program of the policy is loaded over FONT and zeroes; the rest of the state is read off reboot. -/
theorem rebootReinitialises : Obligations.RebootReinitialises := by
  refine ⟨fun policy s => ?_, fun s u => step_of_reboot⟩
  obtain ⟨hfont, hzero, hprogram⟩ := read_loaded s.params.font (rebootProgram policy s)
  rw [length_rebootProgram] at hzero hprogram
  refine ⟨hfont, hzero, fun j hj => ?program, rfl⟩
  case program =>
    cases policy with
    | reloadImage => exact (hprogram j hj).symm
    | keepCurrent => exact (hprogram j hj).symm.trans ((getElem?_bytesAt s loadAddr s.rom.length j).trans (if_pos hj))

/-- Settles O26: with the ROM's bytes still in memory, both policies load the same program. -/
theorem rebootPoliciesAgreeOnUnmodifiedPrograms : Obligations.RebootPoliciesAgreeOnUnmodifiedPrograms := by
  intro s h
  have hprogram : rebootProgram .reloadImage s = rebootProgram .keepCurrent s := (bytesAt_eq_of_forall h).symm
  rw [reboot, reboot, hprogram]

end Sys2Proof.Machine
end

section
/-! Control transfer on registers, the call stack and jump+offset (41_control_flow.md R140, R142, R145–R147), and the
skips on a key (44_display_input.md R213–R215). -/

namespace Sys2Proof.Machine

/-! ### Skips on two registers (R145, R146) -/

theorem exec_seVxVy (x y : Reg) (s : State) :
    exec (.seVxVy x y) s = .next { s with pc := if s.getV x = s.getV y then s.pc + 4 else s.pc + 2 } := by
  rw [exec, execSeVxVy, skipIf_eq]
  simp only [beq_iff_eq]

theorem exec_sneVxVy (x y : Reg) (s : State) :
    exec (.sneVxVy x y) s = .next { s with pc := if s.getV x ≠ s.getV y then s.pc + 4 else s.pc + 2 } := by
  rw [exec, execSneVxVy, skipIf_eq]
  simp only [bne_iff_ne]

/-- Settles O30: both skips by the model's conditional skip; a register always equals itself. -/
theorem skipOnRegisters : Obligations.SkipOnRegisters := by
  intro x y s
  refine ⟨exec_seVxVy x y s, exec_sneVxVy x y s, ?always, ?never⟩
  case always => rw [exec_seVxVy, if_pos rfl]
  case never => rw [exec_sneVxVy, if_neg (not_not_intro rfl)]

/-! ### The call stack (R140, R142) -/

theorem exec_call_of_lt {nnn : BitVec 12} {s : State} (h : s.sp.val < 16) :
    exec (.call nnn) s = .next ((s.push s.pc).setPc (addrOf nnn)) := by
  have hown : ownFault (.call nnn) s = none := if_neg fun hsp => by rw [hsp] at h; exact absurd h (by decide)
  rw [exec_of_ownFault_none hown, effect_call]

theorem exec_ret_of_pos {s : State} (h : 0 < s.sp.val) : exec .ret s = .next s.pop.advance := by
  have hown : ownFault .ret s = none := if_neg fun hsp => by rw [hsp] at h; exact absurd h (by decide)
  rw [exec_of_ownFault_none hown, effect_ret]

/-- Settles O32: with a free entry the check passes and the push writes that entry and SP; with none it is the
overflow. -/
theorem callPushesItsOwnAddress : Obligations.CallPushesItsOwnAddress := by
  intro nnn s
  refine ⟨fun h => ⟨_, exec_call_of_lt h, addrOf_toNat nnn, push_sp h, push_stack h, ?frame⟩, fun h => ?overflow⟩
  case frame => rw [push_frame]; rfl
  case overflow => exact exec_of_ownFault_some (if_pos (Fin.ext h))

/-- Settles O33: with an entry in use the check passes and the pop reads it; with none it is the underflow. -/
theorem returnPopsAndAdvances : Obligations.ReturnPopsAndAdvances := by
  intro s
  refine ⟨fun j hj => ?pops, fun h => exec_of_ownFault_some (if_pos (Fin.ext h))⟩
  case pops =>
    have hpos : 0 < s.sp.val := by omega
    have hj' : s.sp.val - 1 = j.val := by omega
    refine ⟨_, exec_ret_of_pos hpos, ?_, (pop_sp hpos).trans hj', ?_⟩
    · rw [State.advance_pc, pop_pc hpos]
      simp only [hj']; rfl
    · rw [pop_frame]; rfl

/-- Settles O34: the entry popped is the one the call pushed, and the call's SP is one above it. -/
theorem returnUndoesCall : Obligations.ReturnUndoesCall := by
  intro nnn s t w hlt hcall hstack hsp
  obtain rfl : _ = t := Host.Outcome.next.inj ((exec_call_of_lt hlt).symm.trans hcall)
  have hwsp : w.sp.val = s.sp.val + 1 := by rw [hsp]; exact push_sp hlt
  have hpos : 0 < w.sp.val := by omega
  have htop : w.sp.val - 1 = s.sp.val := by omega
  refine ⟨_, exec_ret_of_pos hpos, ?pc, Fin.ext ((pop_sp hpos).trans htop), ?stack⟩
  case pc =>
    rw [State.advance_pc, pop_pc hpos]
    simp only [htop, hstack]
    exact congrArg (· + 2) ((push_stack hlt ⟨s.sp.val, hlt⟩).trans (if_pos rfl))
  case stack => rw [State.advance_stack, pop_frame]

/-! ### Jump+offset (R147) -/

theorem wordOf_toNat (b : Byte) : (wordOf b).toNat = b.toNat :=
  BitVec.toNat_setWidth_of_le (by decide)

/-- Settles O35: the sum of a 12-bit and an 8-bit number does not wrap in 16 bits. -/
theorem jumpOffsetAddsV0 : Obligations.JumpOffsetAddsV0 := by
  intro nnn s
  have hnnn := nnn.isLt
  have hv := (s.getV 0).isLt
  have hsum : (addrOf nnn + wordOf (s.getV 0)).toNat = nnn.toNat + (s.getV 0).toNat := by
    rw [BitVec.toNat_add_of_lt, addrOf_toNat, wordOf_toNat]
    rw [addrOf_toNat, wordOf_toNat]; omega
  exact ⟨s.setPc (addrOf nnn + wordOf (s.getV 0)), rfl, hsum, hsum ▸ by omega, rfl⟩

/-! ### Skips on a key (R213–R215) -/

theorem keyIndexFault_of_le {b : Byte} (h : b.toNat ≤ 0xF) : keyIndexFault b = none :=
  if_neg (Nat.not_lt.mpr h)

theorem keyHeld_of_eq {s : State} {b : Byte} {k : Key} (h : b.toNat = k.val) : s.keyHeld b = s.keys[k] := by
  rw [keyHeld_of_lt (h ▸ k.isLt)]
  simp only [h]; rfl

/-- Settles O52: a value up to 0xF passes the check and names its slot; any other is the key fault. -/
theorem keySkipsTestTheNamedKey : Obligations.KeySkipsTestTheNamedKey := by
  intro x s
  refine ⟨fun k hk => ?named, fun h => ⟨exec_of_ownFault_some (if_pos h), exec_of_ownFault_some (if_pos h)⟩⟩
  case named =>
    have hnone : keyIndexFault (s.getV x) = none := keyIndexFault_of_le (hk ▸ Nat.le_of_lt_succ k.isLt)
    refine ⟨(exec_of_ownFault_none (i := .skp x) hnone).trans ?_,
      (exec_of_ownFault_none (i := .sknp x) hnone).trans ?_⟩
    · rw [effect, keyHeld_of_eq hk]; rfl
    · rw [effect, keyHeld_of_eq hk]
      simp only [Bool.not_eq_true']
      rfl

end Sys2Proof.Machine
end

section
/-! Arithmetic with a flag, random and wait-key (42_arithmetic.md R160, R167–R172, 44_display_input.md R216): the
result to VX, the flag to VF last. -/

namespace Sys2Proof.Machine

/-! ### A result and its flag (R160) -/

theorem flagByte_toNat (c : Bool) : (flagByte c).toNat = if c = true then 1 else 0 := by
  cases c <;> rfl

theorem flagByte_eq_zero_or_one (c : Bool) : flagByte c = 0 ∨ flagByte c = 1 := by
  cases c
  · exact .inl rfl
  · exact .inr rfl

theorem flagByte_eq_one_iff {c : Bool} : flagByte c = 1 ↔ c = true := by
  cases c <;> decide

theorem getV_VF_setV_flagByte (s : State) (c : Bool) :
    (s.setV VF (flagByte c)).getV 15 = 0 ∨ (s.setV VF (flagByte c)).getV 15 = 1 := by
  rw [State.getV_setV, if_pos rfl]
  exact flagByte_eq_zero_or_one c

/-- An instruction that writes a result and its flag and advances, both given as numbers. -/
theorem exec_writes_flagged {i : Instr} {s : State} {x : Reg} {r : Byte} {c : Bool} {m n : Nat}
    (hexec : exec i s = .next (s.setFlagged x r c).advance) (hr : r.toNat = m) (hc : (flagByte c).toNat = n) :
    ∃ t, exec i s = .next t ∧
      (∀ z, (t.getV z).toNat = if z = 15 then n else if z = x then m else (s.getV z).toNat) ∧
      t = { s with v := t.v, pc := s.pc + 2 } := by
  refine ⟨_, hexec, fun z => ?_, rfl⟩
  rw [State.getV_advance, getV_setFlagged, apply_ite BitVec.toNat, apply_ite BitVec.toNat, hr, hc]

theorem addFlag_postAddition (a b : Byte) :
    addFlag .postAddition a b = decide (0x80 ≤ (a.toNat + b.toNat) % 256) := by
  rw [addFlag, BitVec.toNat_add, decide_eq_decide]
  omega

theorem addFlag_trueCarry (a b : Byte) : addFlag .trueCarry a b = decide (0xFF < a.toNat + b.toNat) := rfl

/-- Settles O38: the sum of bytes wraps modulo 256, and each rule's flag is a bound on the sum. -/
theorem addRegisterSetsVf : Obligations.AddRegisterSetsVf := by
  intro x y s
  refine exec_writes_flagged rfl (BitVec.toNat_add _ _) ?_
  rw [flagByte_toNat]
  cases s.params.addFlagRule with
  | postAddition => rw [addFlag_postAddition]; simp only [decide_eq_true_iff]
  | trueCarry => rw [addFlag_trueCarry]; simp only [decide_eq_true_iff]

theorem noBorrow_eq (a b : Byte) : noBorrow a b = decide (b.toNat ≤ a.toNat) := by
  rw [noBorrow, ← decide_not, decide_eq_decide, gt_iff_lt, Nat.not_lt]

theorem sub_toNat (a b : Byte) : (a - b).toNat = (a.toNat + 256 - b.toNat) % 256 := by
  have := b.isLt
  rw [BitVec.toNat_sub]
  omega

/-- Settles O39: a difference of bytes wraps modulo 256, and the flag is the absence of a borrow. -/
theorem subtractionsSetVfToNoBorrow : Obligations.SubtractionsSetVfToNoBorrow := by
  have hflag : ∀ a b : Byte, (flagByte (noBorrow a b)).toNat = if b.toNat ≤ a.toNat then 1 else 0 := fun a b => by
    rw [flagByte_toNat, noBorrow_eq]; simp only [decide_eq_true_iff]
  exact fun x y s => ⟨exec_writes_flagged rfl (sub_toNat _ _) (hflag _ _),
    exec_writes_flagged rfl (sub_toNat _ _) (hflag _ _)⟩

/-- A bit of a byte, as a flag and as a number. -/
theorem flagByte_getLsbD_toNat (a : Byte) (k : Nat) : (flagByte (a.getLsbD k)).toNat = a.toNat / 2 ^ k % 2 := by
  rw [flagByte_toNat, BitVec.getLsbD, Nat.testBit_eq_decide_div_mod_eq]
  simp only [decide_eq_true_iff]
  split <;> omega

theorem flagByte_shrFlag_toNat (a : Byte) : (flagByte (shrFlag a)).toNat = a.toNat % 2 := by
  rw [shrFlag, flagByte_getLsbD_toNat, Nat.pow_zero, Nat.div_one]

theorem flagByte_shlFlag_toNat (a : Byte) : (flagByte (shlFlag a)).toNat = a.toNat / 128 := by
  have := a.isLt
  rw [shlFlag, flagByte_getLsbD_toNat]
  omega

/-- Settles O40: a shift by one halves or doubles VX, and the bit shifted out is its parity or its top bit. -/
theorem shiftsSetVfToTheBitShiftedOut : Obligations.ShiftsSetVfToTheBitShiftedOut := by
  intro x y s
  refine ⟨exec_writes_flagged rfl ?half (flagByte_shrFlag_toNat _),
    exec_writes_flagged rfl ?double (flagByte_shlFlag_toNat _)⟩
  case half => rw [BitVec.toNat_ushiftRight, Nat.shiftRight_eq_div_pow]
  case double => rw [BitVec.toNat_shiftLeft, Nat.shiftLeft_eq]

/-- Settles O42: each of the seven ends with a flag written to VF. -/
theorem flagInstructionsLeaveVfZeroOrOne : Obligations.FlagInstructionsLeaveVfZeroOrOne := by
  intro i s t hi hr h ht
  obtain ⟨-, rfl⟩ | ⟨f, -, rfl⟩ := exec_eq_next h
  · cases i
    case addVxVy | subVxVy | shrVx | subnVxVy | shlVx | drw | addIVx => exact getV_VF_setV_flagByte _ _
    all_goals cases hi
  · cases ht

/-! ### Draws (R172, R216) -/

/-- Settles O41: VX is the draw masked, and a bit clear in the mask is clear in the result. -/
theorem randomIsTheDrawMasked : Obligations.RandomIsTheDrawMasked := by
  intro x nn s
  refine ⟨_, rfl, fun z => getV_setV_advance s.takeDraw x _ z, fun k hk => ?masked, rfl⟩
  case masked =>
    have hv : ((s.takeDraw.setV x (s.randomByte &&& nn)).advance.getV x) = s.randomByte &&& nn := by
      rw [getV_setV_advance, if_pos rfl]
    have hbit : nn[k.val] = false := hk
    rw [hv]
    exact (BitVec.getElem_and k.isLt).trans (by rw [hbit, Bool.and_false])

/-- Settles O53: with a key held the choice takes one of the held keys; with none the state stays. -/
theorem waitKeyStoresAHeldKey : Obligations.WaitKeyStoresAHeldKey := by
  intro x s
  refine ⟨fun hheld => ?stores, exec_ldVxK_of_no_key x⟩
  case stores =>
    obtain ⟨k, hk, hkey⟩ := keyChoice_held hheld
    have hexec : exec (.ldVxK x) s = .next (s.takeDraw.setV x (BitVec.ofNat 8 k.val)).advance := by
      rw [exec_of_ownFault_none rfl, effect_ldVxK, storeChosenKey_of_some x hk]
    refine ⟨_, k, hexec, hkey, fun z => ?_, rfl⟩
    have hlt : k.val < 2 ^ 8 := Nat.lt_trans k.isLt (by decide)
    rw [getV_setV_advance, apply_ite BitVec.toNat, BitVec.toNat_ofNat, Nat.mod_eq_of_lt hlt]
    rfl

end Sys2Proof.Machine
end

section
/-! The index register, BCD and the register store and load (43_index_memory.md R191–R195), and the timer loads
(45_timers.md R231, R232). -/

namespace Sys2Proof.Machine

/-! ### The range check (R11, R252) -/

theorem rangeFault_of_le {a n : Nat} (h : a + n ≤ 4096) : rangeFault a n = none :=
  if_neg (Nat.not_lt.mpr h)

theorem rangeFault_of_lt {a n : Nat} (h : 4096 < a + n) : rangeFault a n = some (.memoryFault (max a 4096)) :=
  if_pos h

/-! ### A byte inside a stored run, and a register inside a loaded one -/

theorem byteAt_storeBytes_inside {bs : List Byte} {j : Nat} {b : Byte} (s : State) (a : Nat) (h : bs[j]? = some b) :
    (s.storeBytes a bs).byteAt (a + j) = b := by
  rw [byteAt_storeBytes, if_pos (Nat.le_add_right a j), Nat.add_sub_cancel_left, h, Option.getD_some]

theorem byteAt_storeBytes_digit {bs : List Byte} {j d : Nat} (s : State) (a : Nat)
    (h : bs[j]? = some (BitVec.ofNat 8 d)) (hd : d < 256) : ((s.storeBytes a bs).byteAt (a + j)).toNat = d := by
  rw [byteAt_storeBytes_inside s a h, BitVec.toNat_ofNat, Nat.mod_eq_of_lt hd]

theorem getV_load (s : State) (x j : Reg) :
    (s.setVs (loadRegs s.v 0 (s.bytesAt s.indexAddr (x.val + 1)))).getV j =
      if j ≤ x then s.byteAt (s.indexAddr + j.val) else s.getV j := by
  have hiff : j.val < x.val + 1 ↔ j ≤ x := Nat.lt_succ_iff
  rw [getV_loadRegs, getElem?_bytesAt]
  by_cases h : j ≤ x
  · rw [if_pos h, if_pos (hiff.mpr h), Option.getD_some]
  · rw [if_neg h, if_neg (mt hiff.mp h), Option.getD_none]

/-- I moved past the bytes of a run that fits in memory does not wrap (R194, R195). -/
theorem toNat_index_add {i : Word} {x : Reg} (h : i.toNat + x.val < 4096) :
    (i + BitVec.ofNat 16 (x.val + 1)).toNat = i.toNat + x.val + 1 := by
  have := x.isLt
  rw [BitVec.toNat_add, BitVec.toNat_ofNat]
  omega

/-! ### The two memory instructions on registers, their check passed -/

theorem exec_ldMemVx {x : Reg} {s : State} (h : s.indexAddr + x.val < 4096) :
    exec (.ldMemVx x) s = .next
      ((s.storeBytes s.indexAddr (s.regsUpTo x)).setI (s.i + BitVec.ofNat 16 (x.val + 1))).advance :=
  exec_of_ownFault_none (i := .ldMemVx x) (rangeFault_of_le h)

theorem exec_ldVxMem {x : Reg} {s : State} (h : s.indexAddr + x.val < 4096) :
    exec (.ldVxMem x) s = .next
      ((s.setVs (loadRegs s.v 0 (s.bytesAt s.indexAddr (x.val + 1)))).setI
        (s.i + BitVec.ofNat 16 (x.val + 1))).advance :=
  exec_of_ownFault_none (i := .ldVxMem x) (rangeFault_of_le h)

theorem byteAt_storeBytes_regsUpTo (s : State) {x j : Reg} (h : j ≤ x) :
    (s.storeBytes s.indexAddr (s.regsUpTo x)).byteAt (s.indexAddr + j.val) = s.getV j :=
  byteAt_storeBytes_inside s _ (getElem?_regsUpTo s x j h)

/-! ### The obligations -/

/-- Settles O44: a sum of words wraps modulo 65536, the flag is a bound on it, and five times a byte does not wrap. -/
theorem indexArithmetic : Obligations.IndexArithmetic := by
  intro x s
  refine ⟨⟨_, exec_of_ownFault_none rfl, ?sum, fun z => ?flag, rfl⟩, ⟨_, exec_of_ownFault_none rfl, ?product, rfl⟩⟩
  case sum => exact (BitVec.toNat_add _ _).trans (by rw [wordOf_toNat])
  case flag =>
    have hflag : ∀ t : Word, flagByte (indexFlag t) = if 0x0FFF < t.toNat then 1 else 0 := fun t => by
      rw [indexFlag, flagByte]; simp only [decide_eq_true_iff, gt_iff_lt]
    exact (getV_setV_advance _ VF _ z).trans (by rw [hflag]; rfl)
  case product =>
    have := (s.getV x).isLt
    refine (BitVec.toNat_mul _ _).trans ?_
    rw [wordOf_toNat, show (5 : Word).toNat = 5 from rfl, Nat.mod_eq_of_lt (by omega)]

/-- Settles O45: the three digits are the run stored; a range that does not fit is the memory fault. -/
theorem storeBcdWritesThreeDigits : Obligations.StoreBcdWritesThreeDigits := by
  intro x s
  refine ⟨fun h => ?stores, fun h => exec_of_ownFault_some (rangeFault_of_lt (Nat.lt_succ_of_le h))⟩
  case stores =>
    have hv := (s.getV x).isLt
    exact ⟨_, exec_of_ownFault_none (i := .ldBVx x) (rangeFault_of_le h),
      byteAt_storeBytes_digit (j := 0) s _ rfl (by omega), byteAt_storeBytes_digit (j := 1) s _ rfl (by omega),
      byteAt_storeBytes_digit (j := 2) s _ rfl (by omega), fun a ha => byteAt_storeBytes_outside s ha, rfl⟩

/-- Settles O46: V0..VX are the run stored; a range that does not fit is the memory fault. -/
theorem storeRegistersWritesV0ToVx : Obligations.StoreRegistersWritesV0ToVx := by
  intro x s
  refine ⟨fun h => ⟨_, exec_ldMemVx h, fun j hj => byteAt_storeBytes_regsUpTo s hj, fun a ha => ?outside,
    toNat_index_add h, rfl⟩, fun h => exec_of_ownFault_some (rangeFault_of_lt (Nat.lt_succ_of_le h))⟩
  case outside =>
    refine byteAt_storeBytes_outside s ?_
    rw [length_regsUpTo]
    exact ha

/-- Settles O47: the run read goes to V0..VX; a range that does not fit is the memory fault. -/
theorem loadRegistersReadsV0ToVx : Obligations.LoadRegistersReadsV0ToVx := by
  intro x s
  exact ⟨fun h => ⟨_, exec_ldVxMem h, getV_load s x, fun _ => rfl, toNat_index_add h, rfl⟩,
    fun h => exec_of_ownFault_some (rangeFault_of_lt (Nat.lt_succ_of_le h))⟩

/-- Settles O48: the load reads, from the same I, the memory the store left. -/
theorem storeThenLoadRegistersRoundTrip : Obligations.StoreThenLoadRegistersRoundTrip := by
  intro x s t w hlt hstore hi hmem hparams
  obtain rfl : _ = t := Host.Outcome.next.inj ((exec_ldMemVx hlt).symm.trans hstore)
  have haddr : w.indexAddr = s.indexAddr := congrArg BitVec.toNat hi
  refine ⟨_, exec_ldVxMem (haddr ▸ hlt), fun j hj => ?register, ?index⟩
  case register =>
    refine (getV_load w x j).trans ((if_pos hj).trans ?_)
    rw [State.byteAt, hmem, hparams, haddr]
    exact byteAt_storeBytes_regsUpTo s hj
  case index => exact congrArg (· + BitVec.ofNat 16 (x.val + 1)) hi

/-- Settles O55: each load writes one timer and advances, and the step that completes counts the new value down. -/
theorem timerLoadsAreDecrementedInTheSameStep : Obligations.TimerLoadsAreDecrementedInTheSameStep := by
  intro x s
  refine ⟨⟨rfl, fun hr => ?delay⟩, rfl, fun hr => ⟨?sound, ?beep⟩⟩
  case delay =>
    rw [finish_of_running, report_timerUpdate_dt_toNat]
    exacts [hr, rfl]
  case sound =>
    rw [finish_of_running, report_timerUpdate_st_toNat]
    exacts [hr, rfl]
  case beep =>
    rw [finish_of_running, report_timerUpdate_reply, hr]
    exacts [rfl, hr, rfl]

end Sys2Proof.Machine
end

section
/-! Sprites over the whole framebuffer (44_display_input.md R211, R212): each cell by the pixel that lands on it. -/

namespace Sys2Proof.Machine

/-! ### Cells and collisions -/

/-- The pixel of the sprite of n bytes at I, drawn at (VX, VY), that lands on column cx and row cy. -/
abbrev State.pixel (s : State) (x y : Reg) (n cx cy : Nat) : Bool :=
  spritePixel (s.bytesAt s.indexAddr n) (s.getV x).toNat (s.getV y).toNat cx cy

theorem fbGet_sprite {n : Nat} (s : State) (x y : Reg) (hn : n ≤ 15) (cx : Fin 64) (cy : Fin 32) :
    fbGet (s.sprite x y n).1 (cellIndex cx.val cy.val) =
      (fbGet s.fb (cellIndex cx.val cy.val) ^^ s.pixel x y n cx.val cy.val) := by
  have hlen : (s.bytesAt s.indexAddr n).length ≤ 15 := by rw [length_bytesAt]; exact hn
  rw [State.sprite, (blitRows_get _ _ _ _ _ (le_trans hlen (by decide))).1]
  congr 1
  rw [Bool.eq_iff_iff, decide_eq_true_iff]
  exact exists_pixel_iff _ hlen _ _ _ cx.isLt _ cy.isLt

theorem cellIndex_mod (a b : Nat) : cellIndex (a % 64) (b % 32) = cellIndex a b :=
  cellIndex_inj.mpr ⟨Nat.mod_mod _ _, Nat.mod_mod _ _⟩

/-- VF records a collision: a set cell that a set pixel lands on. -/
theorem sprite_collides_iff {n : Nat} (s : State) (x y : Reg) (hn : n ≤ 15) :
    (s.sprite x y n).2 = true ↔ ∃ (cx : Fin 64) (cy : Fin 32),
      fbGet s.fb (cellIndex cx.val cy.val) = true ∧ s.pixel x y n cx.val cy.val = true := by
  have hlen : (s.bytesAt s.indexAddr n).length ≤ 15 := by rw [length_bytesAt]; exact hn
  rw [State.sprite, (blitRows_get _ _ _ _ (cellIndex 0 0) (le_trans hlen (by decide))).2, Bool.false_or,
    decide_eq_true_iff]
  constructor
  · rintro ⟨r, hr, c, hc, hbit, hcell⟩
    have hx : ((s.getV x).toNat + c) % 64 < 64 := Nat.mod_lt _ (by decide)
    have hy : ((s.getV y).toNat + r) % 32 < 32 := Nat.mod_lt _ (by decide)
    refine ⟨⟨_, hx⟩, ⟨_, hy⟩, ?_, (exists_pixel_iff _ hlen _ _ _ hx _ hy).mp ⟨r, hr, c, hc, hbit, ?_⟩⟩
    · rw [cellIndex_mod]; exact hcell
    · rw [cellIndex_mod]
  · rintro ⟨cx, cy, hcell, hpix⟩
    obtain ⟨r, hr, c, hc, hbit, hidx⟩ := (exists_pixel_iff _ hlen _ _ _ cx.isLt _ cy.isLt).mpr hpix
    exact ⟨r, hr, c, hc, hbit, hidx ▸ hcell⟩

/-! ### The instruction, its check passed or not -/

theorem ownFault_drw_eq_none {n : Nat} {s : State} (x y : Reg) (h : n = 0 ∨ s.indexAddr + n ≤ 4096) :
    ownFault (.drw x y n) s = none := by
  rcases h with rfl | h
  · rfl
  · exact ite_eq_left_iff.mpr fun _ => rangeFault_of_le h

theorem ownFault_drw_eq_some {n : Nat} {s : State} (x y : Reg) (hn : n ≠ 0) (h : 4096 < s.indexAddr + n) :
    ownFault (.drw x y n) s = some (.memoryFault (max s.indexAddr 4096)) :=
  (if_neg hn).trans (rangeFault_of_lt h)

/-! ### The obligations -/

/-- Settles O50: the sprite's cells and its collision by the pixels that land on them; a sprite out of range is the
memory fault. -/
theorem drawSpriteXorsEveryCell : Obligations.DrawSpriteXorsEveryCell := by
  intro x y n s hn
  refine ⟨fun h => ?draws, fun hn0 h => exec_of_ownFault_some (ownFault_drw_eq_some x y hn0 h)⟩
  case draws =>
    have hvf : (effect (.drw x y n) s).getV 15 = flagByte (s.sprite x y n).2 :=
      (getV_setV_advance _ VF _ 15).trans (if_pos rfl)
    refine ⟨_, exec_of_ownFault_none (ownFault_drw_eq_none x y h), fun cx cy => ?cell, ?bit, ?collision,
      fun z hz => ?others, fun _ => rfl, rfl⟩
    case cell => rw [← cellIndex_eq]; exact fbGet_sprite s x y hn cx cy
    case bit => rw [hvf]; exact flagByte_eq_zero_or_one _
    case collision =>
      rw [hvf, flagByte_eq_one_iff, sprite_collides_iff s x y hn]
      simp only [cellIndex_eq]
    case others => exact (getV_setV_advance _ VF _ z).trans (if_neg hz)

/-- Settles O51: a cell meets the same pixel twice, and its two flips cancel. -/
theorem drawingTwiceRestoresTheFramebuffer : Obligations.DrawingTwiceRestoresTheFramebuffer := by
  intro x y n s t w u hn ht hs hrun hw hu
  obtain ⟨hown, rfl⟩ | ⟨f, -, rfl⟩ := exec_eq_next ht
  case inr => cases hrun
  subst hw
  have hown' : ownFault (.drw x y n) { effect (.drw x y n) s with v := s.v } = none := hown
  obtain rfl : _ = u := Host.Outcome.next.inj ((exec_of_ownFault_none hown').symm.trans hu)
  have hcancel : ∀ a b : Bool, ((a ^^ b) ^^ b) = a := by decide
  refine fb_ext fun idx => ?_
  have hx : idx.val % 64 < 64 := Nat.mod_lt _ (by decide)
  have hy : idx.val / 64 < 32 := Nat.div_lt_of_lt_mul idx.isLt
  rw [← cellIndex_div_mod idx]
  refine (fbGet_sprite { effect (.drw x y n) s with v := s.v } x y hn ⟨_, hx⟩ ⟨_, hy⟩).trans ?_
  rw [show ({ effect (.drw x y n) s with v := s.v } : State).fb = (s.sprite x y n).1 from rfl,
    fbGet_sprite s x y hn ⟨_, hx⟩ ⟨_, hy⟩]
  exact hcancel _ _

end Sys2Proof.Machine
end
